-- ==== Sys2Proof/Word.lean ====
section
/-! DEFINITION. The word types of the BlinkBot PWM block: command words, bus bytes, bus addresses, channel and servo
identities, colour codes. -/

namespace Sys2Proof

/-- A byte on the bus or in the PWM controller's register space (20_memory R65). -/
abbrev Byte := BitVec 8

/-- A 16-bit word of a command packet, of a servo angle register, of a sensor sample (00_scope R8 XLEN, R12). -/
abbrev Word := BitVec 16

/-- A 7-bit bus device address (20_memory R61). -/
abbrev BusAddr := BitVec 7

/-- A PWM channel, 0 to 15 (00_scope R7 NCHAN). -/
abbrev Channel := Fin 16

/-- A servo, by its index in `ANGLE`: index i is the servo that the spec numbers i + 1 (10_state R21). -/
abbrev Servo := Fin 8

/-- A colour code, a member of `Config.colors`, 0 is `None` (30_encoding R108). DESIGN CHOICE, log entry 5, safe: the spec
gives the code no width, and the event record carries it in 16 bits. -/
abbrev ColorCode := BitVec 16

/-- The numeric id of an event source (00_scope R8, 30_encoding R107). A plain number: the spec gives it no width. -/
abbrev EventId := Nat

end Sys2Proof
end

