-- ==== Sys2Proof/Syntax.lean ====
section
/-! DEFINITION. The instructions: one constructor per row of spec/opcode_table.json. Nine command rows, the catch-all
row RESERVED, and the two bus payload rows CHWRITE and REGWRITE (30_encoding R96, R98, R101, R109). -/

namespace Sys2Proof

/-- The two registers a REGWRITE addresses (30_encoding R106). -/
inductive CtrlReg where
  /-- `MODE`, offset 0x00. -/
  | mode
  /-- `PRESCALE`, offset 0xFE. -/
  | prescale
deriving DecidableEq, Repr

/-- The instructions. Operands are the packet's 16-bit words, each read as a two's-complement integer by the command's
meaning (30_encoding R92). -/
inductive Instr where
  /-- INIT (40_pwm_driver R130). -/
  | init
  /-- SETCH ch, on, off (40_pwm_driver R138). -/
  | setch (ch on off : Word)
  /-- SETANGLE s, deg (41_servo R150). -/
  | setangle (s deg : Word)
  /-- SWEEP s, target, delay (41_servo R155). -/
  | sweep (s target delay : Word)
  /-- MOVESYNC dur, t1, ..., tN with N in 0..8 (41_servo R160, 30_encoding R93). -/
  | movesync (dur : Word) (targets : List Word)
  /-- RUN m, speed (42_drive R180). -/
  | run (m speed : Word)
  /-- LFSTEP max, left, right (42_drive R187). -/
  | lfstep (max left right : Word)
  /-- WDARK thr (43_watchers R200). -/
  | wdark (thr : Word)
  /-- WCOLOR (43_watchers R202). -/
  | wcolor
  /-- A malformed packet: its opcode byte and its operand words, as many as its header counts (30_encoding R98). -/
  | reserved (op : Byte) (operands : List Word)
  /-- CHWRITE: the 5-byte payload of one channel write (30_encoding R102). -/
  | chwrite (ch : Channel) (onLow onHigh offLow offHigh : Byte)
  /-- REGWRITE: the 2-byte payload of one single-register write (30_encoding R106). -/
  | regwrite (reg : CtrlReg) (value : Byte)
deriving DecidableEq, Repr

end Sys2Proof
end

