-- ==== Sys2Proof/WellFormed.lean ====
section
/-! DEFINITION. Which instructions an encoding exists for: the operand counts of 30_encoding R96. -/

namespace Sys2Proof

/-- The legal operand counts of an opcode (30_encoding R96, R93); an opcode outside 0x01..0x09 has none (R98). -/
def legalCount (op : Byte) (n : Nat) : Bool :=
  if op = 0x01#8 then n == 0
  else if op = 0x02#8 then n == 3
  else if op = 0x03#8 then n == 2
  else if op = 0x04#8 then n == 3
  else if op = 0x05#8 then 1 ≤ n && n ≤ 9
  else if op = 0x06#8 then n == 2
  else if op = 0x07#8 then n == 3
  else if op = 0x08#8 then n == 1
  else if op = 0x09#8 then n == 0
  else false

/-- A MOVESYNC has at most 8 targets (30_encoding R93). A malformed packet has at most 255 operand words (R90) and an
opcode and count that no command row has (R98). Every other term is well formed. -/
def wellFormed : Instr → Bool
  | .init => true
  | .setch _ _ _ => true
  | .setangle _ _ => true
  | .sweep _ _ _ => true
  | .movesync _ targets => decide (targets.length ≤ 8)
  | .run _ _ => true
  | .lfstep _ _ _ => true
  | .wdark _ => true
  | .wcolor => true
  | .reserved op operands => decide (operands.length ≤ 255) && !legalCount op operands.length
  | .chwrite _ _ _ _ _ => true
  | .regwrite _ _ => true

/-- The instruction is well formed. -/
abbrev WellFormed (i : Instr) : Prop := wellFormed i = true

end Sys2Proof
end

