-- ==== Sys2Proof/Decode.lean ====
section
/-! DEFINITION. The decoder of command packets and bus payloads, and after it the encoder (30_encoding). -/

namespace Sys2Proof

/-- What carries an instruction: a packet of 16-bit words on the CMD port (30_encoding R90), or the bytes of one
`writeBytes` transaction on the BUS port, first byte first (20_memory R60, 30_encoding R101). -/
inductive Wire where
  | packet (words : List Word)
  | payload (bytes : List Byte)
deriving DecidableEq, Repr

/-- Why a wire holds no instruction. -/
inductive Reject where
  /-- A packet without its header word (30_encoding R90). -/
  | noHeader
  /-- A packet whose operand words are not as many as its header counts (30_encoding R91). -/
  | wrongLength
  /-- A payload that is neither a CHWRITE nor a REGWRITE (20_memory R62, 30_encoding R101). -/
  | notAPayload
deriving DecidableEq, Repr

/-! ### Fields -/

/-- Header bits 15:8, the opcode (30_encoding R91). -/
def headerOp (w0 : Word) : Byte := w0.extractLsb' 8 8

/-- Header bits 7:0, the number of operand words (30_encoding R91). -/
def headerCount (w0 : Word) : Nat := (w0.extractLsb' 0 8).toNat

/-- The header word with an opcode in bits 15:8 and an operand count in bits 7:0 (30_encoding R91). -/
def header (op : Byte) (n : Nat) : Word := BitVec.ofNat 16 (op.toNat * 256 + n % 256)

/-- `chreg(ch) = 0x06 + 4 * ch` (30_encoding R103). -/
def chreg (ch : Channel) : Byte := BitVec.ofNat 8 (0x06 + 4 * ch.val)

/-- The channel whose block starts at an offset, if one does (30_encoding R103, 20_memory R71). -/
def channelAt (offset : Byte) : Option Channel :=
  if h : 6 ≤ offset.toNat ∧ (offset.toNat - 6) % 4 = 0 ∧ (offset.toNat - 6) / 4 < 16 then
    some ⟨(offset.toNat - 6) / 4, h.2.2⟩
  else none

/-- The offsets of the two registers a REGWRITE addresses (30_encoding R106). -/
def ctrlOffset : CtrlReg → Byte
  | .mode => 0x00#8
  | .prescale => 0xFE#8

/-- The register a REGWRITE's first byte names (30_encoding R106). -/
def ctrlAt (offset : Byte) : Option CtrlReg :=
  if offset = 0x00#8 then some .mode else if offset = 0xFE#8 then some .prescale else none

/-! ### Decoding -/

/-- A command without operand words. -/
def noOperand (i : Instr) : List Word → Option Instr
  | [] => some i
  | _ => none

/-- A command of one operand word. -/
def oneOperand (f : Word → Instr) : List Word → Option Instr
  | [a] => some (f a)
  | _ => none

/-- A command of two operand words. -/
def twoOperands (f : Word → Word → Instr) : List Word → Option Instr
  | [a, b] => some (f a b)
  | _ => none

/-- A command of three operand words. -/
def threeOperands (f : Word → Word → Word → Instr) : List Word → Option Instr
  | [a, b, c] => some (f a b c)
  | _ => none

/-- MOVESYNC's duration and up to 8 targets (30_encoding R93). -/
def moveOperands : List Word → Option Instr
  | dur :: targets => if targets.length ≤ 8 then some (.movesync dur targets) else none
  | [] => none

/-- The command row that an opcode and its operand words match, from the top (30_encoding R96, R109). -/
def commandRow (op : Byte) (operands : List Word) : Option Instr :=
  if op = 0x01#8 then noOperand .init operands
  else if op = 0x02#8 then threeOperands .setch operands
  else if op = 0x03#8 then twoOperands .setangle operands
  else if op = 0x04#8 then threeOperands .sweep operands
  else if op = 0x05#8 then moveOperands operands
  else if op = 0x06#8 then twoOperands .run operands
  else if op = 0x07#8 then threeOperands .lfstep operands
  else if op = 0x08#8 then oneOperand .wdark operands
  else if op = 0x09#8 then noOperand .wcolor operands
  else none

/-- The instruction of an opcode and its operand words: a command row, else RESERVED (30_encoding R98). -/
def decodeCommand (op : Byte) (operands : List Word) : Instr :=
  (commandRow op operands).getD (.reserved op operands)

/-- A packet, header first: its length is one more than its header's count, whatever the opcode (30_encoding R91). -/
def decodePacket : List Word → Except Reject Instr
  | [] => .error .noHeader
  | w0 :: operands =>
    if operands.length = headerCount w0 then .ok (decodeCommand (headerOp w0) operands) else .error .wrongLength

/-- A bus payload: the 5-byte CHWRITE (30_encoding R102) or the 2-byte REGWRITE (R106). -/
def decodePayload : List Byte → Except Reject Instr
  | [a, p, q, r, s] =>
    match channelAt a with
    | some ch => .ok (.chwrite ch p q r s)
    | none => .error .notAPayload
  | [r, v] =>
    match ctrlAt r with
    | some reg => .ok (.regwrite reg v)
    | none => .error .notAPayload
  | _ => .error .notAPayload

/-- The instruction a wire holds. -/
def decode : Wire → Except Reject Instr
  | .packet words => decodePacket words
  | .payload bytes => decodePayload bytes

/-- The first whole packet of the CMD port's word stream and the words after it; none while the packet is not there
whole (30_encoding R90, R91: the block tells the length from the header's count alone). -/
def takePacket : List Word → Option (List Word × List Word)
  | [] => none
  | w0 :: ws =>
    if ws.length < headerCount w0 then none
    else some (w0 :: ws.take (headerCount w0), ws.drop (headerCount w0))

/-! ### Encoding -/

/-- The words of a packet or the bytes of a payload, written from 30_encoding R91, R96, R98, R102 and R106. -/
def encode : Instr → Wire
  | .init => .packet [0x0100#16]
  | .setch ch on off => .packet [0x0203#16, ch, on, off]
  | .setangle s deg => .packet [0x0302#16, s, deg]
  | .sweep s target delay => .packet [0x0403#16, s, target, delay]
  | .movesync dur targets => .packet (header 0x05#8 (targets.length + 1) :: dur :: targets)
  | .run m speed => .packet [0x0602#16, m, speed]
  | .lfstep max left right => .packet [0x0703#16, max, left, right]
  | .wdark thr => .packet [0x0801#16, thr]
  | .wcolor => .packet [0x0900#16]
  | .reserved op operands => .packet (header op operands.length :: operands)
  | .chwrite ch onLow onHigh offLow offHigh => .payload [chreg ch, onLow, onHigh, offLow, offHigh]
  | .regwrite reg value => .payload [ctrlOffset reg, value]

/-- The words of an instruction's packet; a bus payload has none. -/
def packetOf (i : Instr) : List Word :=
  match encode i with
  | .packet words => words
  | .payload _ => []

/-! ### The opcode table's numbering -/

/-- The low `n` words of a number, first word first. -/
def tableWords : Nat → Nat → List Word
  | 0, _ => []
  | n + 1, w => BitVec.ofNat 16 w :: tableWords n (w / 65536)

/-- The low `n` bytes of a number, first byte first. -/
def tableBytes : Nat → Nat → List Byte
  | 0, _ => []
  | n + 1, w => BitVec.ofNat 8 w :: tableBytes n (w / 256)

/-- A packet's words with words of zeros for the operand words its header counts beyond those given, and without words
beyond that count. -/
def fillPacket : List Word → List Word
  | [] => []
  | w0 :: ws => w0 :: (ws ++ List.replicate (headerCount w0 - ws.length) 0#16).take (headerCount w0)

/-- The wire of an instruction whose bits spec/opcode_table.json numbers `w`: whole 16-bit words are a packet, with
words of zeros for the operand words its header counts beyond `nbits`; any other number of bytes is a bus payload,
first byte in bits 7..0. The 16 bits of a REGWRITE are those of a header too, and the table's rows are tried top to
bottom (30_encoding R109), so 16 bits are read as a header. Log entry 14. -/
def wireOfTable (nbits w : Nat) : Wire :=
  if nbits % 16 = 0 then .packet (fillPacket (tableWords (nbits / 16) w)) else .payload (tableBytes (nbits / 8) w)

/-- The instruction the decoder reads from an instruction whose bits spec/opcode_table.json numbers `w`. -/
def decodeTableWord (nbits w : Nat) : Option Instr :=
  match decode (wireOfTable nbits w) with
  | .ok i => some i
  | .error _ => none

end Sys2Proof
end

