-- ==== Sys2Proof/Machine/Params.lean ====
section
/-! DEFINITION. The constants the source fixes (00_scope R7) and the parameters whose value the spec's own table gives
(00_scope R8). -/

namespace Sys2Proof.Machine

/-- `MODE_SLEEP` (00_scope R8). PRESUMED: "from general knowledge, not in source". Log entry 2. -/
def modeSleep : Byte := 0x10#8

/-- `MODE_AI`, auto-increment (00_scope R8). PRESUMED, log entry 2. -/
def modeAI : Byte := 0x20#8

/-- `MODE_RESTART` (00_scope R8). PRESUMED, log entry 2. -/
def modeRestart : Byte := 0x80#8

/-- `PRESCALE_VALUE`: `round(25,000,000 / 4096 / 50) - 1` = 121 (00_scope R7, 10_state R34). -/
def prescaleValue : Byte := 121#8

/-- `OSC_WAIT_MS` (00_scope R7). -/
def oscWaitMs : Nat := 5

/-- `LF_LEFT_MOTOR` (00_scope R8, 42_drive R191). Log entry 3. -/
def lfLeftMotor : Int := 1

/-- `LF_RIGHT_MOTOR` (00_scope R8, 42_drive R191). Log entry 3. -/
def lfRightMotor : Int := 2

/-- `LF_REDUCED`, the speed of the inner wheel in a turn (00_scope R8, 42_drive R188). Log entry 3. -/
def lfReduced : Int := 0

/-- The PWM channels in ascending order. -/
def channels : List Channel := [0, 1, 2, 3, 4, 5, 6, 7, 8, 9, 10, 11, 12, 13, 14, 15]

/-- The servos in ascending order. -/
def servos : List Servo := [0, 1, 2, 3, 4, 5, 6, 7]

end Sys2Proof.Machine
end

