-- ==== Sys2Proof/Machine/Operands.lean ====
section
/-! DEFINITION. The arithmetic of the block: operands as integers, clamps, the angle-to-tick map, rounding, byte
packing, and which identity an operand names. All of it on mathematical integers (00_scope R12, 41_servo R174). -/

namespace Sys2Proof.Machine

/-- `clamp(v, lo, hi)` (00_scope R14). -/
def clamp (v lo hi : Int) : Int := if v < lo then lo else if v > hi then hi else v

/-- `lo8(v) = v mod 256` (00_scope R13), for negative `v` too. -/
def lo8 (v : Int) : Byte := BitVec.ofInt 8 v

/-- `hi8(v) = floor(v / 256) mod 256` (00_scope R13); `/` rounds down for a positive divisor. -/
def hi8 (v : Int) : Byte := BitVec.ofInt 8 (v / 256)

/-- The pulse width of an angle, in microseconds: `deg * 1800 / 180 + 600`, exact for an integer (41_servo R151). -/
def pulseUs (deg : Int) : Int := 10 * deg + 600

/-- `ticks(deg) = trunc(pulse_us * 4096 / 20000)`, rounded once, toward zero (41_servo R151). -/
def ticks (deg : Int) : Int := Int.tdiv (pulseUs deg * 4096) 20000

/-- `round_half_up(num / den) = floor(num / den + 1/2)` for `den > 0` (00_scope R14, 41_servo R166). -/
def roundHalfUp (num : Int) (den : Nat) : Int := (2 * num + den) / (2 * den)

/-- The channel an operand names, if it lies in 0..15 (40_pwm_driver R139). -/
def channelOperand (ch : Int) : Option Channel :=
  if h : 0 ≤ ch ∧ ch ≤ 15 then some ⟨ch.toNat, by omega⟩ else none

/-- The servo an operand names, if it lies in 1..8 (41_servo R154). -/
def servoOperand (s : Int) : Option Servo :=
  if h : 1 ≤ s ∧ s ≤ 8 then some ⟨(s - 1).toNat, by omega⟩ else none

/-- The number the spec gives a servo, 1 to 8 (10_state R21). -/
def servoNumber (i : Servo) : Int := (i.val : Int) + 1

/-- `fwd(m) = (m - 1) * 2` (10_state R24). -/
def forwardChannel (m : Int) : Int := (m - 1) * 2

/-- `rev(m) = (m - 1) * 2 + 1` (10_state R24). -/
def reverseChannel (m : Int) : Int := (m - 1) * 2 + 1

/-- RUN's scaled and clamped speed, in ticks (42_drive R181). -/
def driveTicks (speed : Int) : Int := clamp (speed * 16) (-4095) 4095

/-- LFSTEP's pair of motor speeds, left then right (42_drive R187, R188, R190: 0 is on the line, anything else off). -/
def lineFollow (sp left right : Int) : Int × Int :=
  if left = 0 then
    if right = 0 then (sp, sp) else (lfReduced, sp)
  else
    if right = 0 then (sp, lfReduced) else (0, 0)

/-- The byte INIT puts the controller to sleep with: `(old AND NOT MODE_RESTART) OR MODE_SLEEP` (40_pwm_driver R132).
PRESUMED, log entry 2. -/
def sleepByte (old : Byte) : Byte := (old &&& ~~~modeRestart) ||| modeSleep

/-- The byte INIT leaves in the mode register: `old OR MODE_AI OR MODE_RESTART` (40_pwm_driver R134). -/
def wakeByte (old : Byte) : Byte := old ||| modeAI ||| modeRestart

/-- The angle of a lane in frame `k` of `steps`: `round_half_up(start + k * delta / steps)` (41_servo R165, R166). -/
def framePosition (start delta : Int) (k steps : Nat) : Int :=
  roundHalfUp (start * steps + k * delta) steps

end Sys2Proof.Machine
end

