-- ==== Sys2Proof/Config.lean ====
section
/-! DEFINITION. What an implementation fixes and the spec leaves OPEN (00_scope R8), and the free values: answers and
choices that the spec puts no law on. Each is an opaque constant, so that no proof can see which value it is. The
parameters whose value the spec's own table gives are in Machine/Params.lean. -/

namespace Sys2Proof.Config

/-- `PWM_ADDR`, the 7-bit bus address of the PWM controller (00_scope R8 OPEN, 20_memory R61). Log entry 1. -/
opaque pwmAddr : BusAddr

/-- The implementation's choice for `SENS_ADDR` before it is made distinct from `PWM_ADDR`. Log entry 1. -/
opaque sensAddrRaw : BusAddr

/-- `SENS_ADDR`, the 7-bit bus address of the light sensor, distinct from `PWM_ADDR` (20_memory R61). The block itself
never addresses it. Log entry 1. -/
def sensAddr : BusAddr := if sensAddrRaw = pwmAddr then pwmAddr + 1 else sensAddrRaw

/-- One less than the implementation's `NWATCH`, or nothing where the table is unbounded. Log entry 4. -/
opaque nwatchLessOne : Option Nat

/-- `NWATCH`, the capacity of the dark-watcher table: a number ≥ 1, or unbounded (00_scope R8 OPEN, 10_state R35). -/
def nwatch : Option Nat := nwatchLessOne.map (· + 1)

/-- One less than the implementation's `DARK_POLL_MS`. Log entry 4. -/
opaque darkPollLessOne : Nat

/-- `DARK_POLL_MS`, a positive number of milliseconds (00_scope R8 OPEN, 43_watchers R212). -/
def darkPollMs : Nat := darkPollLessOne + 1

/-- One less than the implementation's `COLOR_POLL_MS`. Log entry 4. -/
opaque colorPollLessOne : Nat

/-- `COLOR_POLL_MS`, a positive number of milliseconds (00_scope R8 OPEN, 43_watchers R212). -/
def colorPollMs : Nat := colorPollLessOne + 1

/-- `EV_DARK`, the numeric source id of the dark event (00_scope R8 OPEN, 30_encoding R107). Log entry 4. -/
opaque evDark : EventId

/-- The implementation's choice for `EV_COLOR` before it is made distinct from `EV_DARK`. Log entry 4. -/
opaque evColorRaw : EventId

/-- `EV_COLOR`, the numeric source id of the colour event, distinct from `EV_DARK` (00_scope R8 OPEN, 30_encoding R107). -/
def evColor : EventId := if evColorRaw = evDark then evDark + 1 else evColorRaw

/-- The members of `COLORS` beside `None`: the spec leaves the closed set open (00_scope R8). Log entry 5. -/
opaque otherColors : List ColorCode

/-- `COLORS`, the closed set of colour categories as their codes, with `None`, code 0, in it (00_scope R8, 30_encoding
R108). -/
def colors : List ColorCode := 0#16 :: otherColors

/-- The n-th member of `COLORS`, `None` beyond its last. -/
def color (n : Nat) : ColorCode := colors.getD n 0#16

/-- The byte that the PWM controller's register at an offset holds after power-on: "unspecified: any byte" (10_state R50,
93 U11). Log entry 6. -/
opaque powerOnByte : Nat → Byte

/-- The n-th free answer of the Bus Transport to a read of the mode register (20_memory R63). Log entry 7. -/
opaque modeAnswer : Nat → Byte

/-- The n-th free answer of the sensor driver to `AmbientRead` (43_watchers R203). Log entry 8. -/
opaque ambientAnswer : Nat → Word

/-- Which member of `COLORS` the sensor driver's n-th free answer to `ColorRead` is (43_watchers R204). Log entry 8. -/
opaque colorChoice : Nat → Nat

/-- The n-th free choice of the scheduler (60_exceptions R243). Log entry 9. -/
opaque choice : Nat → Nat

/-- The n-th free lateness, in milliseconds, by which a task runs after it may (60_exceptions R241). Log entry 10. -/
opaque lateness : Nat → Nat

/-- The n-th free byte that a channel write without auto-increment leaves in the image (20_memory R67). Log entry 18. -/
opaque unspecifiedByte : Nat → Byte

end Sys2Proof.Config
end

