-- ==== Sys2Proof/Machine/State.lean ====
section
/-! DEFINITION. The machine's state as plain data (10_state R20, R45), the reasons a step can stop, and the state after
reset (10_state R50). -/

namespace Sys2Proof.Machine

/-- The three tasks of the block (00_scope R10). -/
inductive Task where
  | cmd
  | dark
  | color
deriving DecidableEq, Repr

/-- A watcher task's state: Idle (0) or Running (1) (10_state R36). -/
inductive TaskState where
  | idle
  | running
deriving DecidableEq, Repr

/-- `SLEEP[t]`: awake, or sleeping until a time in milliseconds (10_state R43). -/
inductive Wake where
  | awake
  | sleepingUntil (time : Nat)
deriving DecidableEq, Repr

/-- `SLEEP[CMD]`, `SLEEP[DARK]`, `SLEEP[COLOR]` (10_state R43). -/
structure Sleeps where
  cmd : Wake
  dark : Wake
  color : Wake
deriving DecidableEq, Repr

/-- One entry of the dark-watcher table: its threshold, a signed 16-bit word, and the classification of its previous
poll (10_state R35). -/
structure Watcher where
  thr : Word
  last : Bool
deriving DecidableEq, Repr

/-- One lane of a MOVESYNC in progress: its servo, clamped target `T[i]`, start angle `start[i]` and `delta[i]`
(10_state R42, 41_servo R171). -/
structure Lane where
  servo : Servo
  target : Int
  start : Int
  delta : Int
deriving DecidableEq, Repr

/-- `SEQ = Move(...)`: the lanes, the number of frames, the pause after each, and `k`, the number of frames already
written (10_state R42). -/
structure Move where
  lanes : List Lane
  steps : Nat
  frameDelay : Nat
  k : Nat
deriving DecidableEq, Repr

/-- `SEQ`, where the command in progress stands (10_state R40, R41, R42). -/
inductive Seq where
  | idle
  | sweep (servo : Servo) (target delay : Word)
  | move (m : Move)
deriving DecidableEq, Repr

/-- The items of the trace (10_state R45). -/
inductive Item where
  /-- `C(packet)`: a command accepted. -/
  | accepted (packet : List Word)
  /-- `W(dev, [bytes])`: a bus write, first byte sent first. -/
  | write (dev : BusAddr) (bytes : List Byte)
  /-- `R(dev, reg) = v`: a bus read with its answer. -/
  | read (dev : BusAddr) (reg value : Byte)
  /-- `S(ambient) = v`. -/
  | ambient (value : Word)
  /-- `S(color) = c`. -/
  | color (code : ColorCode)
  /-- `E(src, val)`: an event; `src` is `Config.evDark` or `Config.evColor` (30_encoding R107, 60_exceptions R233). -/
  | event (src : EventId) (val : Word)
  /-- `P(task, ms)`: a pause. -/
  | pause (task : Task) (ms : Nat)
  /-- `D(task)`: the end of a command. -/
  | done (task : Task)
deriving DecidableEq, Repr

/-- A feed of free answers or choices, the model's own: first the answers pinned by whoever writes the state, then a
counter that an opaque constant of `Config` is applied to. Log entries 7 to 10. -/
structure Feed (α : Type) where
  pinned : List α
  drawn : Nat
deriving DecidableEq, Repr

/-- The outside of the block as the model holds it; no field of it is the spec's state (00_scope R11). Every statement
holds for every value of these fields. -/
structure Env where
  /-- Words the host has presented on the CMD port and the block has not accepted (30_encoding R90, 60_exceptions R244). -/
  cmdIn : List Word
  /-- Bus payloads to be delivered to the PWM controller before any task runs; the block puts none here. Log entry 15. -/
  busIn : List (List Byte)
  /-- The time in milliseconds since reset; the block cannot read it (60_exceptions R241). Log entry 10. -/
  now : Nat
  /-- Answers of the Bus Transport to reads of the mode register (20_memory R63). -/
  modeIn : Feed Byte
  /-- Answers of the sensor driver to `AmbientRead` (43_watchers R203). -/
  ambientIn : Feed Word
  /-- Answers of the sensor driver to `ColorRead`, as indices into `Config.colors` (43_watchers R204). -/
  colorIn : Feed Nat
  /-- The scheduler's choices among the tasks that may run next (60_exceptions R243). -/
  choiceIn : Feed Nat
  /-- How many milliseconds later than it may a task runs (60_exceptions R241). -/
  latenessIn : Feed Nat
deriving DecidableEq, Repr

/-- The register space of the PWM controller, as cells of offset and byte with rising offsets. The 66 offsets that the spec
describes are listed, from reset on; at the others the spec describes no register (10_state R30, 20_memory R71). Log
entry 6. -/
abbrev Memory := List Host.Cell

/-- The state of the block (10_state R20), the observer's trace (R45), and the outside as the model holds it. -/
structure State where
  /-- `ANGLE[1]` to `ANGLE[8]`, in whole degrees, two's complement; index i is servo i + 1 (10_state R21, R22). -/
  angle : Vector Word 8
  /-- `WATCH[0..WCOUNT-1]`, in append order (10_state R35). -/
  watch : List Watcher
  /-- `DARK_RUN` (10_state R36). -/
  darkRun : TaskState
  /-- `COLOR_RUN` (10_state R36). -/
  colorRun : TaskState
  /-- `LASTCOLOR` (10_state R37). -/
  lastColor : ColorCode
  /-- `BUSY` (10_state R38). -/
  busy : Bool
  /-- `SEQ` (10_state R40). -/
  seq : Seq
  /-- `SLEEP[task]` (10_state R43). -/
  sleep : Sleeps
  /-- The register image of the PWM controller (10_state R30). -/
  image : Memory
  /-- The trace, oldest item first (10_state R45). -/
  trace : List Item
  /-- The model's own: which unspecified byte a bus write may leave next; every bus write advances it by its data bytes
  (20_memory R67). Log entry 18. -/
  freeDrawn : Nat
  /-- The outside of the block. -/
  env : Env
deriving DecidableEq, Repr

/-- `WCOUNT`, the number of valid entries of `WATCH` (10_state R35). Log entry 25. -/
def State.wcount (s : State) : Nat := s.watch.length

/-- The faults of the block: none. "The block raises no exception, trap, fault or error code, ever" (60_exceptions
R230). -/
inductive Fault where
deriving DecidableEq, Repr

/-- Why a step has no meaning. -/
inductive Refusal where
  /-- Raised by `exec` for an instruction that has no meaning in this model; no arm raises it. Safe. -/
  | notModelled (mnemonic : String)
  /-- Raised by the delivery of a payload on `env.busIn` that is neither a CHWRITE nor a REGWRITE: "Two shapes occur and
  no other" (20_memory R62). No command leads to it. Safe: nothing is claimed of such a payload. Log entry 16. -/
  | notAPayload
deriving DecidableEq, Repr

/-- The outside after reset: nothing presented, nothing pinned, time 0. DESIGN CHOICE, log entry 17. -/
def Env.reset : Env :=
  { cmdIn := [], busIn := [], now := 0,
    modeIn := ⟨[], 0⟩, ambientIn := ⟨[], 0⟩, colorIn := ⟨[], 0⟩, choiceIn := ⟨[], 0⟩, latenessIn := ⟨[], 0⟩ }

/-- The offsets of the register image, rising: `MODE`, the 64 channel bytes, `PRESCALE` (10_state R30, 20_memory R71). -/
def imageOffsets : List Nat := 0x00 :: ((List.range 64).map (0x06 + ·) ++ [0xFE])

/-- The register image after power-on: "any byte" in every register (10_state R50, 70_reset_and_hazards R262), one free
constant of Config each. DESIGN CHOICE, log entry 6. -/
def Memory.powerOn : Memory := imageOffsets.map fun a => (a, Config.powerOnByte a)

/-- The machine right after power-on, the block's one reset (10_state R50, 70_reset_and_hazards R260). -/
def State.reset : State :=
  { angle := Vector.replicate 8 90#16,
    watch := [],
    darkRun := .idle,
    colorRun := .idle,
    lastColor := 0#16,
    busy := false,
    seq := .idle,
    sleep := { cmd := .awake, dark := .awake, color := .awake },
    image := Memory.powerOn,
    trace := [],
    freeDrawn := 0,
    env := Env.reset }

end Sys2Proof.Machine
end

