-- ==== Sys2Proof/Machine/Flags.lean ====
section
/-! DEFINITION. The one-bit conditions of the block: the auto-increment bit, the room in the watcher table, and the
dark classification with its edge. -/

namespace Sys2Proof.Machine

/-- The byte of the image at an offset. An unlisted offset reads as `none`: the spec describes no register there (10_state
R30, 20_memory R71). Log entry 6. -/
def Memory.read (m : Memory) (offset : Nat) : Option Byte :=
  match m with
  | [] => none
  | (a, b) :: rest => if a = offset then some b else Memory.read rest offset

/-- The image's `MODE` has `MODE_AI` set (20_memory R67). -/
def autoIncrement (m : Memory) : Bool :=
  match m.read 0x00 with
  | some mode => mode &&& modeAI != 0#8
  | none => false

/-- `WCOUNT < NWATCH`, always true of an unbounded table (43_watchers R201). -/
def hasRoom (wcount : Nat) : Bool :=
  match Config.nwatch with
  | some capacity => decide (wcount < capacity)
  | none => true

/-- `isDark`: the sample, unsigned, is below the threshold, signed, as mathematical integers (43_watchers R207). -/
def isDark (sample thr : Word) : Bool := decide ((sample.toNat : Int) < thr.toInt)

/-- An entry's event: `isDark` is true now and was false at the previous poll (43_watchers R206). -/
def darkEdge (sample : Word) (w : Watcher) : Bool := isDark sample w.thr && !w.last

end Sys2Proof.Machine
end

