-- ==== Sys2Proof/Machine/Ops.lean ====
section
/-! DEFINITION. The named operations the meanings are made of (00_scope R14): the register image, the trace, bus writes
and reads, the servo angle registers, pauses and waits, sensor samples, events, and the life of a command. The block
takes no exception (60_exceptions R230), so there is no exception entry and no return here; an event saves nothing and
transfers control nowhere (R236). -/

namespace Sys2Proof.Machine

/-! ### The register image -/

/-- The image with one byte stored, cells kept in rising order. -/
def Memory.write (m : Memory) (offset : Nat) (b : Byte) : Memory :=
  match m with
  | [] => [(offset, b)]
  | (a, c) :: rest =>
    if offset < a then (offset, b) :: (a, c) :: rest
    else if offset = a then (offset, b) :: rest
    else (a, c) :: Memory.write rest offset b

/-- `MemWrite`: byte j goes to `offset + j` (20_memory R66). -/
def Memory.writeBytes (m : Memory) (offset : Nat) : List Byte → Memory
  | [] => m
  | b :: bs => Memory.writeBytes (m.write offset b) (offset + 1) bs

/-- The canonical form: offsets strictly rising. An unlisted offset reads as `none`, which no entry equals. -/
abbrev Memory.wf (m : Memory) : Prop := (m.map Prod.fst).Pairwise (· < ·)

/-! ### Feeds -/

/-- The next answer of a feed. -/
def Feed.value {α : Type} (free : Nat → α) (f : Feed α) : α :=
  match f.pinned with
  | a :: _ => a
  | [] => free f.drawn

/-- The feed after its next answer has been taken. -/
def Feed.rest {α : Type} (f : Feed α) : Feed α :=
  match f.pinned with
  | _ :: as => { f with pinned := as }
  | [] => { f with drawn := f.drawn + 1 }

/-! ### Trace and bus -/

/-- One item appended to the trace (10_state R45). -/
def State.emit (it : Item) (s : State) : State := { s with trace := s.trace ++ [it] }

/-- A bus write of these data stores them as sent: it is of one byte, or `MODE_AI` is set (20_memory R66, R67). -/
def State.storesAsSent (data : List Byte) (s : State) : Bool := decide (data.length ≤ 1) || autoIncrement s.image

/-- The data as sent, or one free byte for each, from the `drawn`-th on (20_memory R66, R67). -/
def bytesLeft (asSent : Bool) (drawn : Nat) : List Byte → List Byte
  | [] => []
  | b :: bs => (if asSent then b else Config.unspecifiedByte drawn) :: bytesLeft asSent (drawn + 1) bs

/-- The bytes a bus write leaves in the image: the data as sent, or, for more than one byte while `MODE_AI` is clear,
"any value" (20_memory R66, R67; log entry 18). Each such write draws free bytes of its own, the same bytes written again
too: the spec leaves open whether R70 ("the same bytes twice leaves the image as writing them once") holds of a write
whose effect R67 leaves unspecified. DESIGN CHOICE, log entry 31, safe. -/
def State.storedBytes (data : List Byte) (s : State) : List Byte :=
  bytesLeft (s.storesAsSent data) s.freeDrawn data

/-- `BusWrite(PWM_ADDR, [reg, data...])`: the transaction on the trace and its effect on the image (20_memory R60, R66,
R67). Every payload the block emits goes through here (30_encoding R101). It takes no time: "Bus transaction times are not
given" (70_reset_and_hazards R279). DESIGN CHOICE, log entry 35, unsafe. -/
def State.busWrite (reg : Byte) (data : List Byte) (s : State) : State :=
  { s with
    trace := s.trace ++ [.write Config.pwmAddr (reg :: data)],
    image := s.image.writeBytes reg.toNat (s.storedBytes data),
    freeDrawn := s.freeDrawn + data.length }

/-- REGWRITE (30_encoding R106). -/
def State.regWrite (reg : CtrlReg) (value : Byte) (s : State) : State := s.busWrite (ctrlOffset reg) [value]

/-- CHWRITE of a channel's two tick counts (30_encoding R102, R104). -/
def State.channelWrite (ch : Channel) (on off : Int) (s : State) : State :=
  s.busWrite (chreg ch) [lo8 on, hi8 on, lo8 off, hi8 off]

/-- SETCH on integers: a channel write, or nothing for a channel outside 0..15 (40_pwm_driver R138, R139). -/
def State.setChannel (ch on off : Int) (s : State) : State :=
  match channelOperand ch with
  | some c => s.channelWrite c on off
  | none => s

/-- The answer the Bus Transport gives to the next read of the mode register (20_memory R63). -/
def State.modeAnswer (s : State) : Byte := s.env.modeIn.value Config.modeAnswer

/-- `BusRead(PWM_ADDR, 0x00)`: the read on the trace with its answer, no effect on the image (20_memory R63, R70). It takes
no time (70_reset_and_hazards R279 gives none). DESIGN CHOICE, log entry 35, unsafe. -/
def State.readMode (s : State) : State :=
  { s with
    trace := s.trace ++ [.read Config.pwmAddr 0x00#8 s.modeAnswer],
    env := { s.env with modeIn := s.env.modeIn.rest } }

/-! ### Time -/

/-- The free lateness of the next timed wait (60_exceptions R241). -/
def State.lateness (s : State) : Nat := s.env.latenessIn.value Config.lateness

/-- `WaitBusy(ms)`: at least `ms` milliseconds pass and nothing else happens (40_pwm_driver R133). Log entry 12. -/
def State.waitBusy (ms : Nat) (s : State) : State :=
  { s with env := { s.env with now := s.env.now + ms + s.lateness, latenessIn := s.env.latenessIn.rest } }

/-- One task's sleep. -/
def Sleeps.get (z : Sleeps) : Task → Wake
  | .cmd => z.cmd
  | .dark => z.dark
  | .color => z.color

/-- One task's sleep replaced. -/
def Sleeps.set (z : Sleeps) (t : Task) (w : Wake) : Sleeps :=
  match t with
  | .cmd => { z with cmd := w }
  | .dark => { z with dark := w }
  | .color => { z with color := w }

/-- `Pause(ms)`: the task sleeps until `ms` milliseconds from now, and the pause is on the trace (60_exceptions R241,
10_state R43). -/
def State.pause (t : Task) (ms : Nat) (s : State) : State :=
  { s with
    sleep := s.sleep.set t (.sleepingUntil (s.env.now + ms)),
    trace := s.trace ++ [.pause t ms] }

/-! ### Servo angle registers -/

/-- `ANGLE[s]` as an integer (10_state R22). -/
def State.angleOf (i : Servo) (s : State) : Int := s.angle[i].toInt

/-- `ANGLE[s] <- a`, in 16 bits two's complement (10_state R22). -/
def State.setAngleOf (i : Servo) (a : Int) (s : State) : State :=
  { s with angle := s.angle.set i (BitVec.ofInt 16 a) }

/-- SETANGLE on integers: the channel write of `ticks(deg)`, `ANGLE` untouched, or nothing for a servo outside 1..8
(41_servo R150, R152, R154, 40_pwm_driver R141). -/
def State.driveServo (n deg : Int) (s : State) : State :=
  match servoOperand n with
  | some _ => s.setChannel (n + 7) 0 (ticks deg)
  | none => s

/-- A servo's channel write followed at once by its register update (41_servo R156, R165, R170). -/
def State.moveServo (i : Servo) (a : Int) (s : State) : State :=
  (s.driveServo (servoNumber i) a).setAngleOf i a

/-! ### Motors -/

/-- RUN on integers: the channel that gets 0 first, then the other; nothing for a motor outside 1..4 (42_drive R180,
R182, R184). -/
def State.driveMotor (m speed : Int) (s : State) : State :=
  if 1 ≤ m ∧ m ≤ 4 then
    if driveTicks speed ≥ 0 then
      (s.setChannel (reverseChannel m) 0 0).setChannel (forwardChannel m) 0 (driveTicks speed)
    else
      (s.setChannel (forwardChannel m) 0 0).setChannel (reverseChannel m) 0 (-driveTicks speed)
  else s

/-! ### Sensors and events -/

/-- The answer of the next `AmbientRead()` (43_watchers R203). -/
def State.ambientAnswer (s : State) : Word := s.env.ambientIn.value Config.ambientAnswer

/-- `AmbientRead()`: one sample taken, on the trace (43_watchers R203). -/
def State.readAmbient (s : State) : State :=
  { s with
    trace := s.trace ++ [.ambient s.ambientAnswer],
    env := { s.env with ambientIn := s.env.ambientIn.rest } }

/-- The answer of the next `ColorRead()`, a member of `COLORS` (43_watchers R204). -/
def State.colorAnswer (s : State) : ColorCode := Config.color (s.env.colorIn.value Config.colorChoice)

/-- `ColorRead()`: one sample taken, on the trace (43_watchers R204). -/
def State.readColor (s : State) : State :=
  { s with
    trace := s.trace ++ [.color s.colorAnswer],
    env := { s.env with colorIn := s.env.colorIn.rest } }

/-- `RaiseEvent(src, val)`: the record on the EVENT port, nothing saved, nothing pending (60_exceptions R236). -/
def State.raiseEvent (src : EventId) (val : Word) (s : State) : State := s.emit (.event src val)

/-! ### The life of a command -/

/-- Acceptance of a command: BUSY set, the packet on the trace (60_exceptions R244). -/
def State.accept (i : Instr) (s : State) : State := ({ s with busy := true }).emit (.accepted (packetOf i))

/-- The end of a command's last segment: SEQ Idle, BUSY 0, the end on the trace (60_exceptions R244). -/
def State.finish (s : State) : State := ({ s with seq := .idle, busy := false }).emit (.done .cmd)

/-- A command given to the block: while BUSY is 1 the CMD port holds it off and nothing happens; otherwise it is accepted
and its first segment runs (60_exceptions R244). Log entry 13. -/
def State.command (i : Instr) (firstSegment : State → State) (s : State) : Host.Outcome State Fault Refusal :=
  .next (if s.busy then s else firstSegment (s.accept i))

/-- A command that completes in one segment (10_state R38). -/
def State.oneSegment (i : Instr) (effect : State → State) (s : State) : Host.Outcome State Fault Refusal :=
  s.command i fun accepted => (effect accepted).finish

end Sys2Proof.Machine
end

