-- ==== Sys2Proof/Machine/Drive.lean ====
section
/-! DEFINITION. The Drive Controller commands RUN and LFSTEP (42_drive). -/

namespace Sys2Proof.Machine

/-- RUN (42_drive R180). -/
def execRun (m speed : Word) (s : State) : Host.Outcome State Fault Refusal :=
  s.oneSegment (.run m speed) fun s => s.driveMotor m.toInt speed.toInt

/-- LFSTEP's effect: the left motor's RUN, then the right motor's (42_drive R187, R189, R191). -/
def State.lineFollowStep (maxSpeed left right : Int) (s : State) : State :=
  let speeds := lineFollow (clamp maxSpeed 0 255) left right
  (s.driveMotor lfLeftMotor speeds.1).driveMotor lfRightMotor speeds.2

/-- LFSTEP (42_drive R187). -/
def execLfstep (max left right : Word) (s : State) : Host.Outcome State Fault Refusal :=
  s.oneSegment (.lfstep max left right) fun s => s.lineFollowStep max.toInt left.toInt right.toInt

end Sys2Proof.Machine
end

