-- ==== Sys2Proof/Machine/Pwm.lean ====
section
/-! DEFINITION. The PWM Driver commands INIT and SETCH, the bus payloads CHWRITE and REGWRITE, and the malformed packet
RESERVED (40_pwm_driver, 30_encoding). -/

namespace Sys2Proof.Machine

/-- SETCH(ch, 0, 0) for ch = 0 to 15, ascending (40_pwm_driver R135). -/
def State.zeroChannels (s : State) : State :=
  channels.foldl (fun s ch => s.setChannel (ch.val : Int) 0 0) s

/-- SETANGLE(s, ANGLE[s]) for s = 1 to 8, ascending (40_pwm_driver R136). -/
def State.reapplyAngles (s : State) : State :=
  servos.foldl (fun s i => s.driveServo (servoNumber i) (s.angleOf i)) s

/-- INIT's effect for the mode byte it read (40_pwm_driver R132 to R136). -/
def State.initWith (old : Byte) (s : State) : State :=
  let asleep := ((s.regWrite .mode (sleepByte old)).regWrite .prescale prescaleValue).regWrite .mode old
  let awake := (asleep.waitBusy oscWaitMs).regWrite .mode (wakeByte old)
  awake.zeroChannels.reapplyAngles

/-- INIT's effect: the mode read of R131, then the rest with its answer (40_pwm_driver R130). -/
def State.initialize (s : State) : State := s.readMode.initWith s.modeAnswer

/-- INIT (40_pwm_driver R130). -/
def execInit (s : State) : Host.Outcome State Fault Refusal :=
  s.oneSegment .init fun s => s.initialize

/-- SETCH (40_pwm_driver R138). -/
def execSetch (ch on off : Word) (s : State) : Host.Outcome State Fault Refusal :=
  s.oneSegment (.setch ch on off) fun s => s.setChannel ch.toInt on.toInt off.toInt

/-- RESERVED: the packet is consumed and nothing else happens (30_encoding R98). -/
def execReserved (op : Byte) (operands : List Word) (s : State) : Host.Outcome State Fault Refusal :=
  s.oneSegment (.reserved op operands) fun s => s

/-- CHWRITE: one bus write of a channel's four bytes (30_encoding R102, 20_memory R66, R67). No command, so neither
acceptance nor BUSY. Log entry 15. -/
def execChwrite (ch : Channel) (onLow onHigh offLow offHigh : Byte) (s : State) : Host.Outcome State Fault Refusal :=
  .next (s.busWrite (chreg ch) [onLow, onHigh, offLow, offHigh])

/-- REGWRITE: one bus write of a control register (30_encoding R106, 20_memory R66). Log entry 15. -/
def execRegwrite (reg : CtrlReg) (value : Byte) (s : State) : Host.Outcome State Fault Refusal :=
  .next (s.regWrite reg value)

end Sys2Proof.Machine
end

