-- ==== Sys2Proof/Machine/Servo.lean ====
section
/-! DEFINITION. The Servo Motion Engine commands SETANGLE, SWEEP and MOVESYNC (41_servo). -/

namespace Sys2Proof.Machine

/-- SETANGLE (41_servo R150). -/
def execSetangle (n deg : Word) (s : State) : Host.Outcome State Fault Refusal :=
  s.oneSegment (.setangle n deg) fun s => s.driveServo n.toInt deg.toInt

/-! ### SWEEP -/

/-- The angle one degree from `a` toward `target` (41_servo R155). -/
def sweepNext (a target : Int) : Int := if target > a then a + 1 else a - 1

/-- One segment of SWEEP: the loop's test; at the target the command ends; otherwise one step with its pause, and the
command ends with the segment whose step reached the target (41_servo R155, R156, 60_exceptions R242). Log entry 11. -/
def State.sweepSegment (i : Servo) (target delay : Word) (s : State) : State :=
  if s.angleOf i = target.toInt then s.finish
  else
    let a := sweepNext (s.angleOf i) target.toInt
    let paused := (({ s with seq := .sweep i target delay }).moveServo i a).pause .cmd delay.toInt.toNat
    if a = target.toInt then paused.finish else paused

/-- SWEEP (41_servo R155); a no-op for a servo outside 1..8 (R154). -/
def execSweep (n target delay : Word) (s : State) : Host.Outcome State Fault Refusal :=
  s.command (.sweep n target delay) fun s =>
    match servoOperand n.toInt with
    | some i => s.sweepSegment i target delay
    | none => s.finish

/-! ### MOVESYNC -/

/-- Steps 1 and 2 for one lane: clamped target, start angle and delta (41_servo R161, R162). -/
def State.planLane (i : Servo) (t : Word) (s : State) : Lane :=
  { servo := i,
    target := clamp t.toInt 0 180,
    start := s.angleOf i,
    delta := clamp t.toInt 0 180 - s.angleOf i }

/-- Steps 1 and 2: target i drives servo i (41_servo R160). -/
def State.planLanes (targets : List Word) (s : State) : List Lane :=
  List.zipWith (fun i t => s.planLane i t) servos targets

/-- The largest magnitude of a delta, 0 without lanes (41_servo R160). -/
def maxAbsDelta (lanes : List Lane) : Nat := (lanes.map fun l => l.delta.natAbs).foldr max 0

/-- Every lane's servo written with its target, ascending, the register after each write (41_servo R163, R168). -/
def State.snapLanes (lanes : List Lane) (s : State) : State :=
  lanes.foldl (fun s l => s.moveServo l.servo l.target) s

/-- One lane's part in frame `k`: nothing for a zero delta (41_servo R165, R167). -/
def State.frameLane (k steps : Nat) (l : Lane) (s : State) : State :=
  if l.delta = 0 then s else s.moveServo l.servo (framePosition l.start l.delta k steps)

/-- The writes of frame `k`, lanes ascending (41_servo R165). -/
def State.frameLanes (k steps : Nat) (lanes : List Lane) (s : State) : State :=
  lanes.foldl (fun s l => s.frameLane k steps l) s

/-- One segment of an animated MOVESYNC: the next frame with its pause, or, after the last frame, the final snap
(41_servo R165, R168, 60_exceptions R242). -/
def State.moveSegment (m : Move) (s : State) : State :=
  if m.k < m.steps then
    (({ s with seq := .move { m with k := m.k + 1 } }).frameLanes (m.k + 1) m.steps m.lanes).pause .cmd m.frameDelay
  else (s.snapLanes m.lanes).finish

/-- `frameDelay = max(1, floor(dur / steps))` (41_servo R164). -/
def frameDelayOf (dur : Int) (steps : Nat) : Nat := max 1 (dur / steps).toNat

/-- The first segment of MOVESYNC: steps 1 to 4, then the snap (R163) or the first frame (41_servo R160). -/
def State.moveStart (dur : Int) (targets : List Word) (s : State) : State :=
  let lanes := s.planLanes targets
  let steps := max 1 (maxAbsDelta lanes)
  if maxAbsDelta lanes = 0 ∨ dur ≤ 0 then (s.snapLanes lanes).finish
  else s.moveSegment { lanes := lanes, steps := steps, frameDelay := frameDelayOf dur steps, k := 0 }

/-- MOVESYNC (41_servo R160); more than 8 targets are no packet's and do nothing (R173). Log entry 21. -/
def execMovesync (dur : Word) (targets : List Word) (s : State) : Host.Outcome State Fault Refusal :=
  s.command (.movesync dur targets) fun s =>
    if targets.length ≤ 8 then s.moveStart dur.toInt targets else s.finish

end Sys2Proof.Machine
end

