-- ==== Sys2Proof/Machine/Watch.lean ====
section
/-! DEFINITION. The Event Watcher Framework: the registrations WDARK and WCOLOR and the poll cycles DARKPOLL and
COLORPOLL (43_watchers). -/

namespace Sys2Proof.Machine

/-- A registration's effect: the entry appended with `last = false` if there is room, and the watcher started (43_watchers
R200, R201, 10_state R51). -/
def State.registerDark (thr : Word) (s : State) : State :=
  { s with
    watch := if hasRoom s.wcount then s.watch ++ [{ thr := thr, last := false }] else s.watch,
    darkRun := .running }

/-- WDARK (43_watchers R200). -/
def execWdark (thr : Word) (s : State) : Host.Outcome State Fault Refusal :=
  s.oneSegment (.wdark thr) fun s => s.registerDark thr

/-- WCOLOR (43_watchers R202). -/
def execWcolor (s : State) : Host.Outcome State Fault Refusal :=
  s.oneSegment .wcolor fun s => { s with colorRun := .running }

/-- One entry's part of a poll cycle: its event on a rising edge of `isDark`, then `last` (43_watchers R206). The entry
is appended to those already polled. -/
def State.pollEntry (sample : Word) (w : Watcher) (s : State) : State :=
  let raised := if darkEdge sample w then s.raiseEvent Config.evDark w.thr else s
  { raised with watch := raised.watch ++ [{ w with last := isDark sample w.thr }] }

/-- DARKPOLL: one sample, every entry in append order against it, one pause (43_watchers R206, R208). -/
def State.darkPoll (s : State) : State :=
  (s.watch.foldl (fun (s' : State) w => s'.pollEntry s.ambientAnswer w) { s.readAmbient with watch := [] }).pause
    .dark Config.darkPollMs

/-- COLORPOLL: one sample, an event if it differs from `LASTCOLOR`, `LASTCOLOR` updated, one pause (43_watchers R210). -/
def State.colorPoll (s : State) : State :=
  let raised := if s.colorAnswer ≠ s.lastColor then s.readColor.raiseEvent Config.evColor s.colorAnswer else s.readColor
  ({ raised with lastColor := s.colorAnswer }).pause .color Config.colorPollMs

end Sys2Proof.Machine
end

