-- ==== Sys2Proof/Machine/Dispatch.lean ====
section
/-! DEFINITION. The meaning of each instruction, one arm per row of spec/opcode_table.json. -/

namespace Sys2Proof.Machine

def exec (i : Instr) (s : State) : Host.Outcome State Fault Refusal :=
  match i with
  | .init => Sys2Proof.Machine.execInit s
  | .setch ch on off => Sys2Proof.Machine.execSetch ch on off s
  | .setangle n deg => Sys2Proof.Machine.execSetangle n deg s
  | .sweep n target delay => Sys2Proof.Machine.execSweep n target delay s
  | .movesync dur targets => Sys2Proof.Machine.execMovesync dur targets s
  | .run m speed => Sys2Proof.Machine.execRun m speed s
  | .lfstep max left right => Sys2Proof.Machine.execLfstep max left right s
  | .wdark thr => Sys2Proof.Machine.execWdark thr s
  | .wcolor => Sys2Proof.Machine.execWcolor s
  | .reserved op operands => Sys2Proof.Machine.execReserved op operands s
  | .chwrite ch onLow onHigh offLow offHigh => Sys2Proof.Machine.execChwrite ch onLow onHigh offLow offHigh s
  | .regwrite reg value => Sys2Proof.Machine.execRegwrite reg value s

end Sys2Proof.Machine
end

