-- ==== Sys2Proof/Machine/Tasks.lean ====
section
/-! DEFINITION. The scheduler: which tasks may run, which is chosen, when it runs, and the later segments of a command
in progress (60_exceptions R241 to R244). -/

namespace Sys2Proof.Machine

/-- Task CMD has something to run: a command in progress, or a whole packet on the CMD port (60_exceptions R243). -/
def State.cmdReady (s : State) : Bool := s.busy || (takePacket s.env.cmdIn).isSome

/-- The tasks that run next or once their pause has passed (60_exceptions R243). -/
def State.liveTasks (s : State) : List Task :=
  (if s.cmdReady then [.cmd] else []) ++
    ((if s.darkRun = .running then [.dark] else []) ++ (if s.colorRun = .running then [.color] else []))

/-- The scheduler's choice and the state after it is made: free among several tasks, no choice with one, none without a
task (60_exceptions R243). Log entries 9 and 19. -/
def State.nextTask (s : State) : Option (Task × State) :=
  match s.liveTasks with
  | [] => none
  | [t] => some (t, s)
  | t :: ts =>
    some ((t :: ts).getD (s.env.choiceIn.value Config.choice % (t :: ts).length) t,
      { s with env := { s.env with choiceIn := s.env.choiceIn.rest } })

/-- The time before which a task may not run (10_state R43). -/
def Wake.time : Wake → Nat
  | .awake => 0
  | .sleepingUntil t => t

/-- The block given to a task: not before its pause has passed, and any time after (60_exceptions R241). Log entry 10. -/
def State.wakeUp (t : Task) (s : State) : State :=
  { s with
    sleep := s.sleep.set t .awake,
    env := { s.env with
      now := max s.env.now (s.sleep.get t).time + s.lateness,
      latenessIn := s.env.latenessIn.rest } }

/-- The next segment of the command in progress (41_servo R155, R160). -/
def State.resume (s : State) : State :=
  match s.seq with
  | .idle => s.finish
  | .sweep i target delay => s.sweepSegment i target delay
  | .move m => s.moveSegment m

end Sys2Proof.Machine
end

