-- ==== Sys2Proof/Machine/Segments.lean ====
section
/-! DEFINITION. What a step runs: the segment of the chosen task, or the delivery of a bus payload (60_exceptions R242). -/

namespace Sys2Proof.Machine

/-- A new command: the whole packet at the head of the CMD port leaves the port and its instruction runs its first
segment (60_exceptions R244). Without a whole packet nothing is accepted (30_encoding R90). -/
def State.acceptPacket (s : State) : Host.Outcome State Fault Refusal :=
  match takePacket s.env.cmdIn with
  | some (packet, rest) =>
    match decode (.packet packet) with
    | .ok i => exec i { s with env := { s.env with cmdIn := rest } }
    | .error _ => .next s
  | none => .next s

/-- One segment of a task (60_exceptions R242). -/
def State.runTask (t : Task) (s : State) : Host.Outcome State Fault Refusal :=
  match t with
  | .cmd => if s.busy then .next s.resume else s.acceptPacket
  | .dark => .next s.darkPoll
  | .color => .next s.colorPoll

/-- One bus payload delivered to the PWM controller, refused if it is of neither shape (20_memory R62). Log entries 15
and 16. -/
def State.deliverPayload (bytes : List Byte) (s : State) : Host.Outcome State Fault Refusal :=
  match decode (.payload bytes) with
  | .ok i => exec i s
  | .error _ => .refused .notAPayload

end Sys2Proof.Machine
end

