-- ==== Sys2Proof/Machine/Step.lean ====
section
/-! DEFINITION. One step of the block: "the scheduler picks one eligible task and runs its next segment" (60_exceptions
R242). -/

namespace Sys2Proof.Machine

/-- A waiting bus payload is delivered first; otherwise the chosen task runs its next segment at a time its pause has
passed; with no task to run nothing happens (60_exceptions R242, 70_reset_and_hazards R263). -/
def step (s : State) : Host.Outcome State Fault Refusal :=
  match s.env.busIn with
  | bytes :: rest => ({ s with env := { s.env with busIn := rest } }).deliverPayload bytes
  | [] =>
    match s.nextTask with
    | none => .next s
    | some (t, s') => (s'.wakeUp t).runTask t

/-- The state with an instruction placed so that the very next step runs it. A packet is put at the head of the CMD
port's words, no payload waiting, no command in progress, and, where a watcher runs, the scheduler's next choice pinned
to CMD, which is first among the live tasks. A payload is put first among the payloads waiting. Log entry 14. -/
def State.withFetchWord (s : State) (nbits w : Nat) : State :=
  match wireOfTable nbits w with
  | .packet words =>
    { s with
      busy := false,
      seq := .idle,
      env := { s.env with
        cmdIn := words ++ s.env.cmdIn,
        busIn := [],
        choiceIn :=
          if s.darkRun = .idle ∧ s.colorRun = .idle then s.env.choiceIn
          else { s.env.choiceIn with pinned := 0 :: s.env.choiceIn.pinned } } }
  | .payload bytes => { s with env := { s.env with busIn := bytes :: s.env.busIn } }

end Sys2Proof.Machine
end

