-- ==== Sys2Proof/Machine/Output.lean ====
section
/-! DEFINITION. What an observer reads off the register image: the 12-bit view and the output waveform (10_state R25,
R31, R32). The block itself never reads a channel back. -/

namespace Sys2Proof.Machine

/-- The offset of a channel's first byte (20_memory R71). -/
def channelBase (ch : Channel) : Nat := 0x06 + 4 * ch.val

/-- A 12-bit tick count from its low and high byte: `{high[3:0], low}` (10_state R31). -/
def tickOfBytes (low high : Byte) : Nat := (high.toNat % 16) * 256 + low.toNat

/-- `onTick(n)`, where the image has both its bytes (10_state R31). -/
def Memory.onTick (m : Memory) (ch : Channel) : Option Nat :=
  match m.read (channelBase ch), m.read (channelBase ch + 1) with
  | some low, some high => some (tickOfBytes low high)
  | _, _ => none

/-- `offTick(n)`, where the image has both its bytes (10_state R31). -/
def Memory.offTick (m : Memory) (ch : Channel) : Option Nat :=
  match m.read (channelBase ch + 2), m.read (channelBase ch + 3) with
  | some low, some high => some (tickOfBytes low high)
  | _, _ => none

/-- Bits 7:4 of both high bytes of a channel are 0, the premise of a claim about its waveform (93 U2). -/
def Memory.plainTicks (m : Memory) (ch : Channel) : Bool :=
  match m.read (channelBase ch + 1), m.read (channelBase ch + 3) with
  | some onHigh, some offHigh => decide (onHigh.toNat < 16) && decide (offHigh.toNat < 16)
  | _, _ => false

/-- The output of a channel during tick `t` of a period: high for `on ≤ t < off` when `on ≤ off` (10_state R32). No value
where the spec gives none: an offset without a byte, a count with more than 12 bits, or `on > off` (93 U2, U3; log entry
22). The `MODE_SLEEP` bit of the image is not read: what the outputs do while it is set is not in the source (60_exceptions
R250, 93 U15, 91 N36), and the model gives the waveform whatever that bit is. DESIGN CHOICE, log entry 32, unsafe. Nor does it ask whether an
INIT has completed: the outputs before the end of the first INIT are not defined by any rule (70_reset_and_hazards R262),
and the model gives the waveform of the image's bytes there too. DESIGN CHOICE, log entry 34, unsafe. -/
def Memory.output (m : Memory) (ch : Channel) (t : Nat) : Option Bool :=
  match m.onTick ch, m.offTick ch with
  | some on, some off => if m.plainTicks ch && decide (on ≤ off) then some (decide (on ≤ t ∧ t < off)) else none
  | _, _ => none

end Sys2Proof.Machine
end

