-- ==== Sys2Proof/Machine/Runs.lean ====
section
/-! DEFINITION. Infinite runs of the block among what the outside does between its steps, and the fairness of the
scheduler as a premise on them (60_exceptions R245, 93 U10). -/

namespace Sys2Proof.Machine

/-- What the outside may do between two steps: present more words on the CMD port, and fix answers, choices and latenesses
to come. It writes no state of the block (60_exceptions R246). -/
def Offered (s t : State) : Prop :=
  ∃ words modeIn ambientIn colorIn choiceIn latenessIn, t = { s with
    env := { s.env with
      cmdIn := s.env.cmdIn ++ words,
      modeIn := modeIn, ambientIn := ambientIn, colorIn := colorIn, choiceIn := choiceIn, latenessIn := latenessIn } }

/-- An infinite run: each state is what the outside made of the step from the state before. -/
def IsRun (r : Nat → State) : Prop := ∀ n, ∃ t, step (r n) = .next t ∧ Offered t (r (n + 1))

/-- The next step runs a segment of this task: no payload waits, and the scheduler chooses it (60_exceptions R242). -/
def Chosen (t : Task) (s : State) : Prop := s.env.busIn = [] ∧ ∃ s', s.nextTask = some (t, s')

/-- "Every eligible task is eventually chosen" (60_exceptions R245): a task that is live in a state of the run is chosen
there or later. A paused task is live: the spec lets a model treat a sleeping task as eligible at any later step (10_state
R43). Log entry 24. -/
def Fair (r : Nat → State) : Prop := ∀ n t, t ∈ (r n).liveTasks → ∃ m, n ≤ m ∧ Chosen t (r m)

end Sys2Proof.Machine
end

