-- ==== Sys2Proof/Safety.lean ====
section
/-! DEFINITION. The terms the statements use: the items of a command on the trace, which state an action leaves alone,
the offsets the spec describes, the legal angles, and the invariant of the block. -/

namespace Sys2Proof.Machine

/-! ### Trace items -/

/-- The items of a command of one segment: its acceptance, its own items, its end (10_state R45). -/
def commandItems (i : Instr) (items : List Item) : List Item := .accepted (packetOf i) :: (items ++ [.done .cmd])

/-- The bus write of a channel's two counts (30_encoding R102, R104). -/
def channelItem (ch : Channel) (on off : Int) : Item :=
  .write Config.pwmAddr [chreg ch, lo8 on, hi8 on, lo8 off, hi8 off]

/-- The bus write of a control register (30_encoding R106). -/
def ctrlItem (reg : CtrlReg) (value : Byte) : Item := .write Config.pwmAddr [ctrlOffset reg, value]

/-- The bus writes of SETCH on integers: one, or none for a channel outside 0..15 (40_pwm_driver R138, R139). -/
def channelItems (ch on off : Int) : List Item :=
  match channelOperand ch with
  | some c => [channelItem c on off]
  | none => []

/-- The channel of a servo, servo number + 7 (10_state R24). -/
def servoChannel (i : Servo) : Channel := ⟨i.val + 8, by omega⟩

/-- The bus write that drives a servo to an angle (41_servo R150). -/
def servoItem (i : Servo) (deg : Int) : Item := channelItem (servoChannel i) 0 (ticks deg)

/-- A bus write. -/
def Item.isWrite : Item → Bool
  | .write _ _ => true
  | _ => false

/-- A command's acceptance. -/
def Item.isAccepted : Item → Bool
  | .accepted _ => true
  | _ => false

/-- An event. -/
def Item.isEvent : Item → Bool
  | .event _ _ => true
  | _ => false

/-- A bus write of one of the two payload formats the block emits, to the PWM controller (30_encoding R101). -/
def Item.isPayload : Item → Prop
  | .write dev bytes => dev = Config.pwmAddr ∧ ∃ i, decode (.payload bytes) = .ok i
  | _ => True

/-! ### What an action leaves alone -/

/-- The block's own registers apart from the watcher table and its run flags: the servo angles, `LASTCOLOR`, and the
sleeps (10_state R20). -/
structure SameRegisters (s t : State) : Prop where
  angle : t.angle = s.angle
  lastColor : t.lastColor = s.lastColor
  sleep : t.sleep = s.sleep

/-- The watchers' state: the table and the two run flags (10_state R35, R36). -/
structure SameWatchers (s t : State) : Prop where
  watch : t.watch = s.watch
  darkRun : t.darkRun = s.darkRun
  colorRun : t.colorRun = s.colorRun

/-- No command in progress (10_state R38, R40). -/
structure Quiescent (s : State) : Prop where
  busy : s.busy = false
  seq : s.seq = .idle

/-- Every image byte outside a set of offsets reads as before. -/
def SameImageOutside (offsets : Nat → Prop) (s t : State) : Prop :=
  ∀ a, ¬ offsets a → t.image.read a = s.image.read a

/-- The four offsets of a channel's block (20_memory R71). -/
def InChannel (ch : Channel) (a : Nat) : Prop := channelBase ch ≤ a ∧ a < channelBase ch + 4

/-- The four bytes of a channel's block are those of two counts, low byte first (30_encoding R102, R104). -/
structure ChannelHolds (m : Memory) (ch : Channel) (on off : Int) : Prop where
  onLow : m.read (channelBase ch) = some (lo8 on)
  onHigh : m.read (channelBase ch + 1) = some (hi8 on)
  offLow : m.read (channelBase ch + 2) = some (lo8 off)
  offHigh : m.read (channelBase ch + 3) = some (hi8 off)

/-- A command of one segment has completed with these items of its own between its acceptance and its end (10_state R38,
60_exceptions R244). -/
structure Completed (i : Instr) (items : List Item) (s t : State) : Prop where
  trace : t.trace = s.trace ++ commandItems i items
  quiescent : Quiescent t

/-- A channel write has had its effect on the image: nothing outside the channel's block, and, with `MODE_AI` set before,
the two counts in it (20_memory R66, R67). -/
structure ChannelWritten (ch : Channel) (on off : Int) (s t : State) : Prop where
  outside : SameImageOutside (InChannel ch) s t
  inside : autoIncrement s.image = true → ChannelHolds t.image ch on off

/-- The angle register of one servo holds an angle and the others are as before (10_state R22). -/
structure AngleSet (i : Servo) (a : Int) (s t : State) : Prop where
  this : t.angleOf i = a
  others : ∀ j, j ≠ i → t.angleOf j = s.angleOf j

/-- The targets of a MOVESYNC as its lanes take them: target i clamped for servo i, every other servo as it was
(41_servo R161, R170, R171). -/
def targetAngle (targets : List Word) (s : State) (i : Servo) : Int :=
  match targets[i.val]? with
  | some t => clamp t.toInt 0 180
  | none => s.angleOf i

/-- A servo that a MOVESYNC of these targets moves. -/
def InTargets (targets : List Word) (i : Servo) : Prop := i.val < targets.length

/-- The four-byte blocks of the servos that lanes of a MOVESYNC with a delta move: a frame writes no other (41_servo R167). -/
def InMovingChannels (lanes : List Lane) (a : Nat) : Prop :=
  ∃ l ∈ lanes, l.delta ≠ 0 ∧ InChannel (servoChannel l.servo) a

/-- The four-byte blocks of the servos that a MOVESYNC of these targets moves. -/
def InTargetChannels (targets : List Word) (a : Nat) : Prop := ∃ i, InTargets targets i ∧ InChannel (servoChannel i) a

/-- The largest distance a MOVESYNC of these targets has to move a servo: `maxAbs` (41_servo R160). -/
def moveDistance (targets : List Word) (s : State) : Nat :=
  (List.zipWith (fun i t => (clamp t.toInt 0 180 - s.angleOf i).natAbs) servos targets).foldr max 0

/-! ### Legal states -/

/-- The offsets the spec describes: `MODE`, the 64 channel bytes, `PRESCALE` (10_state R30). -/
def describedOffset (a : Nat) : Bool := a == 0x00 || (0x06 ≤ a && a ≤ 0x45) || a == 0xFE

/-- Every cell of the image is at a described offset. -/
def Memory.described (m : Memory) : Prop := ∀ c ∈ m, describedOffset c.1 = true

/-- Every described offset holds a byte. -/
def Memory.complete (m : Memory) : Prop := ∀ a, describedOffset a = true → (m.read a).isSome

/-- A legal servo angle (00_scope R7 ANGLE_MIN, ANGLE_MAX). -/
def legalAngle (a : Int) : Prop := 0 ≤ a ∧ a ≤ 180

/-- Every servo angle register is in range (10_state R22). -/
def AnglesInRange (s : State) : Prop := ∀ i : Servo, legalAngle (s.angleOf i)

/-- A lane's `delta` is its target less its start, its target is clamped, its start fits the register, and its delta
is no larger than the number of frames (41_servo R161, R162, R164). -/
structure Lane.Legal (steps : Nat) (l : Lane) : Prop where
  target : legalAngle l.target
  delta : l.delta = l.target - l.start
  startLow : -32768 ≤ l.start
  startHigh : l.start ≤ 32767
  steps : l.delta.natAbs ≤ steps

/-- A MOVESYNC in progress: lanes are servos 1 to N in order, `steps` is the largest delta, at least one frame has been
written (10_state R42, 41_servo R164, R171). -/
structure Move.Legal (m : Move) : Prop where
  servos : m.lanes.map Lane.servo = Machine.servos.take m.lanes.length
  lanes : ∀ l ∈ m.lanes, l.Legal m.steps
  steps : m.steps = maxAbsDelta m.lanes
  frameDelay : 1 ≤ m.frameDelay
  begun : 1 ≤ m.k
  inside : m.k ≤ m.steps

/-- What `SEQ` may hold beside the servo angles: a SWEEP that has not reached its target; a legal MOVESYNC whose lanes
stand where its last frame put them (41_servo R155, R165, R170). -/
def SeqLegal (s : State) : Prop :=
  match s.seq with
  | .idle => True
  | .sweep i target _ => s.angleOf i ≠ target.toInt
  | .move m => m.Legal ∧ ∀ l ∈ m.lanes, s.angleOf l.servo = framePosition l.start l.delta m.k m.steps

/-- The invariant of the block: the image is canonical and holds a byte at every described offset and at no other;
`LASTCOLOR` is a member of `COLORS`; BUSY is 1 exactly while `SEQ` is not Idle; `SEQ` is legal; the table has at most
NWATCH entries and none before the first registration (10_state R20, R30, R35, R37, R38, R40). -/
structure Inv (s : State) : Prop where
  imageCanonical : s.image.wf
  imageDescribed : s.image.described
  imageComplete : s.image.complete
  lastColor : s.lastColor ∈ Config.colors
  busySeq : s.busy = true ↔ s.seq ≠ .idle
  seqLegal : SeqLegal s
  capacity : ∀ n, Config.nwatch = some n → s.wcount ≤ n
  started : s.darkRun = .idle → s.watch = []

/-- The host keeps its duty with this instruction: no SWEEP to a target outside 0..180 (10_state R22, 60_exceptions
R246). -/
def TargetInRange : Instr → Prop
  | .sweep _ target _ => legalAngle target.toInt
  | _ => True

/-- A SWEEP in progress has a target in range. -/
def SeqInRange (s : State) : Prop :=
  match s.seq with
  | .sweep _ target _ => legalAngle target.toInt
  | .move m => ∀ l ∈ m.lanes, legalAngle l.start
  | .idle => True

/-- The instruction that the whole packet at the head of the CMD port holds, if there is one. -/
def State.presented (s : State) : Option Instr :=
  match takePacket s.env.cmdIn with
  | some (packet, _) =>
    match decode (.packet packet) with
    | .ok i => some i
    | .error _ => none
  | none => none

/-- Only the command sequencer has anything to run: both watchers Idle, no payload waiting. -/
structure CmdAlone (s : State) : Prop where
  darkRun : s.darkRun = .idle
  colorRun : s.colorRun = .idle
  busIn : s.env.busIn = []

end Sys2Proof.Machine
end

