-- ==== Sys2Proof/Certificates/Slice0/Obligations.lean ====
section
/-! DEFINITION. The statements for the provers. Each says which rule of spec/ it formalises; one that rests on a choice of
the model or of the spec's decision table says so. -/

open Sys2Proof Sys2Proof.Machine

/-! ### Encodings -/

/-- Decoding the encoding of a well-formed instruction gives it back, every operand at every value (30_encoding R91, R96,
R98, R102, R103, R106). -/
def Obligations.DecodeOfEncodeIsTheInstruction : Prop :=
  ∀ i : Instr, WellFormed i → decode (encode i) = .ok i

/-- A wire that decodes is the encoding of what it decodes to, which is well formed: no bit of a wire is dropped. -/
def Obligations.EncodeOfDecodeIsTheWire : Prop :=
  ∀ (w : Wire) (i : Instr), decode w = .ok i → WellFormed i ∧ encode i = w

/-- A packet whose opcode and count no command row has is RESERVED (30_encoding R98, decision D4). -/
def Obligations.MalformedPacketIsReserved : Prop :=
  ∀ (w0 : Word) (operands : List Word), operands.length = headerCount w0 →
    legalCount (headerOp w0) operands.length = false →
    decode (.packet (w0 :: operands)) = .ok (.reserved (headerOp w0) operands)

/-- The stream stays in step: a packet taken from it is one header and as many words as it counts, the rest of the stream
follows, and the packet holds a well-formed instruction, whatever its opcode (30_encoding R91). -/
def Obligations.EveryWholePacketDecodes : Prop :=
  ∀ ws packet rest, takePacket ws = some (packet, rest) →
    ws = packet ++ rest ∧ ∃ i, decode (.packet packet) = .ok i ∧ WellFormed i

/-- Packets and payloads written out from 30_encoding R96, R98, R105 and R106 decode to the instructions they stand
for. -/
def Obligations.WrittenOutWordsDecode : Prop :=
  decode (.packet [0x0100#16]) = .ok .init ∧
  decode (.packet [0x0203#16, 0x0003#16, 0x0001#16, 0x0FFF#16]) = .ok (.setch 3#16 1#16 4095#16) ∧
  decode (.packet [0x0403#16, 0x0002#16, 0x0057#16, 0x0014#16]) = .ok (.sweep 2#16 87#16 20#16) ∧
  decode (.packet [0x0703#16, 0x012C#16, 0x0000#16, 0x0001#16]) = .ok (.lfstep 300#16 0#16 1#16) ∧
  decode (.packet [0x0801#16, 0x0032#16]) = .ok (.wdark 50#16) ∧
  decode (.packet [0x0101#16, 0x0000#16]) = .ok (.reserved 0x01#8 [0#16]) ∧
  decode (.payload [0x42#8, 0x00#8, 0x00#8, 0x00#8, 0x00#8]) = .ok (.chwrite 15 0#8 0#8 0#8 0#8) ∧
  decode (.payload [0xFE#8, 0x79#8]) = .ok (.regwrite .prescale 121#8)

/-! ### The step -/

/-- When CMD is chosen, no command is in progress and the packet at the head of the CMD port decodes to `i`, the step is
`exec i` on the state after the scheduler's choice, the wake, and the packet's words have left the port (60_exceptions
R242, R244). That a new packet too runs only after the wake, so after the last pause of CMD, is the model's reading (log
entry 11; R243 asks of a new packet only that BUSY be 0), as is the time at which a wake falls (log entry 10). -/
def Obligations.StepRunsTheDecodedPacket : Prop :=
  ∀ (s s' : State) packet rest i, s.env.busIn = [] → s.nextTask = some (.cmd, s') → s.busy = false →
    takePacket s.env.cmdIn = some (packet, rest) → decode (.packet packet) = .ok i →
    step s = exec i { s'.wakeUp .cmd with env := { (s'.wakeUp .cmd).env with cmdIn := rest } }

/-- A payload waiting on the bus that decodes to `i` is delivered first: the step is `exec i` on the state without it (the
model's choice, log entry 15). -/
def Obligations.StepDeliversTheDecodedPayload : Prop :=
  ∀ (s : State) bytes rest i, s.env.busIn = bytes :: rest → decode (.payload bytes) = .ok i →
    step s = exec i { s with env := { s.env with busIn := rest } }

/-- A payload of neither shape is refused by name (the model's choice, log entry 16; 20_memory R62: "Two shapes occur and
no other"). -/
def Obligations.OtherPayloadsAreRefused : Prop :=
  ∀ (s : State) bytes rest e, s.env.busIn = bytes :: rest → decode (.payload bytes) = .error e →
    step s = .refused .notAPayload

/-- Nothing stops the block: every instruction answers a next state in every state, and so does every step unless a
payload of neither shape waits (60_exceptions R230; the exception is log entry 16). -/
def Obligations.NothingStopsTheBlock : Prop :=
  (∀ (i : Instr) (s : State), ∃ t, exec i s = .next t) ∧
  ∀ s : State, (∀ bytes ∈ s.env.busIn.head?, ∃ i, decode (.payload bytes) = .ok i) → ∃ t, step s = .next t

/-- Who may run (60_exceptions R243, decision D31): CMD while a command is in progress or a whole packet is on the port, each
watcher while it is Running; the scheduler chooses one of these, any of them, and the choice changes nothing but the
scheduler's feed (log entry 9; a sleep is waited for, log entry 10). -/
def Obligations.SchedulerMayPickAnyLiveTask : Prop :=
  (∀ s : State,
    (.cmd ∈ s.liveTasks ↔ s.busy = true ∨ (takePacket s.env.cmdIn).isSome = true) ∧
    (.dark ∈ s.liveTasks ↔ s.darkRun = .running) ∧ (.color ∈ s.liveTasks ↔ s.colorRun = .running)) ∧
  (∀ (s s' : State) (t : Task), s.nextTask = some (t, s') →
    t ∈ s.liveTasks ∧ ∃ f, s' = { s with env := { s.env with choiceIn := f } }) ∧
  ∀ (s : State) (t : Task), t ∈ s.liveTasks → ∃ (n : Nat) (s' : State),
    ({ s with env := { s.env with
        choiceIn := { s.env.choiceIn with pinned := n :: s.env.choiceIn.pinned } } } : State).nextTask = some (t, s')

/-- With no payload waiting and no task to run, a step changes nothing; so it is right after reset (70_reset_and_hazards
R263, decision D13; log entry 19). -/
def Obligations.NothingHappensWithoutATask : Prop :=
  (∀ s : State, s.env.busIn = [] → s.cmdReady = false → s.darkRun = .idle → s.colorRun = .idle → step s = .next s) ∧
  step State.reset = .next State.reset

/-- A step runs the chosen task's segment on a state whose time is no earlier than the end of that task's pause, the sleeps
of the other tasks stay through the step, and time never runs back in a step (60_exceptions R241, decision D32; that a
task sleeping still may be chosen, time passing, is log entry 10). The task that runs is awake: log entry 28. -/
def Obligations.PausesAreLowerBounds : Prop :=
  (∀ (s s' : State) (task : Task), s.env.busIn = [] → s.nextTask = some (task, s') →
    ∃ w : State, step s = w.runTask task ∧ (s.sleep.get task).time ≤ w.env.now ∧ s.env.now ≤ w.env.now ∧
      w.sleep.get task = .awake ∧ ∀ u, u ≠ task → w.sleep.get u = s.sleep.get u) ∧
  (∀ (s s' t : State) (task : Task), s.env.busIn = [] → s.nextTask = some (task, s') → step s = .next t →
    (s.sleep.get task).time ≤ t.env.now ∧ ∀ u, u ≠ task → t.sleep.get u = s.sleep.get u) ∧
  ∀ s t : State, step s = .next t → s.env.now ≤ t.env.now

/-- While BUSY is 1 a step takes no word from the CMD port and accepts no command (60_exceptions R244, decision D31). -/
def Obligations.BusyBlockAcceptsNoCommand : Prop :=
  ∀ s t : State, s.busy = true → step s = .next t →
    t.env.cmdIn = s.env.cmdIn ∧
      ∃ items, t.trace = s.trace ++ items ∧ ∀ it ∈ items, it.isAccepted = false

/-- A command given while BUSY is 1 is held off: nothing changes (60_exceptions R244, decision D31; log entry 13). -/
def Obligations.BusyBlockHoldsOffACommand : Prop :=
  ∀ (i : Instr) (words : List Word) (s : State), encode i = .packet words → s.busy = true → exec i s = .next s

/-- An instruction placed with `withFetchWord` is what the next step runs, from every state: a packet's words leave the
port again, a payload leaves the queue; before it runs nothing of the block's state changes but, for a packet, BUSY, `SEQ` and
the sleep of CMD, with no payload left waiting (the model's choice, log entry 14). -/
def Obligations.PlacedInstructionRunsNext : Prop :=
  ∀ (s : State) (nbits w : Nat) (i : Instr), decodeTableWord nbits w = some i →
    ∃ s' : State, step (s.withFetchWord nbits w) = exec i s' ∧
      s'.angle = s.angle ∧ s'.watch = s.watch ∧ s'.darkRun = s.darkRun ∧ s'.colorRun = s.colorRun ∧
      s'.lastColor = s.lastColor ∧ s'.image = s.image ∧ s'.trace = s.trace ∧ s'.env.cmdIn = s.env.cmdIn ∧
      (∀ words, encode i = .packet words → s'.busy = false ∧ s'.seq = .idle ∧ s'.env.busIn = [] ∧
        s'.sleep.dark = s.sleep.dark ∧ s'.sleep.color = s.sleep.color) ∧
      ∀ bytes, encode i = .payload bytes →
        s'.env.busIn = s.env.busIn ∧ s'.busy = s.busy ∧ s'.seq = s.seq ∧ s'.sleep = s.sleep

/-! ### Reset -/

/-- The state after reset (10_state R50, 70_reset_and_hazards R260): all angles 90, no watcher entry, both watchers Idle,
`LASTCOLOR` None, BUSY 0, `SEQ` Idle, all tasks awake, the trace empty, and in each register of the image "any byte" (log
entry 6: a free constant of Config), at no other offset a byte. Several of these values are the spec's own decisions (D28,
D34). -/
def Obligations.ResetState : Prop :=
  (∀ i : Servo, State.reset.angleOf i = 90) ∧ State.reset.watch = [] ∧ State.reset.wcount = 0 ∧
  State.reset.darkRun = .idle ∧ State.reset.colorRun = .idle ∧ State.reset.lastColor = 0#16 ∧
  Quiescent State.reset ∧ (∀ t : Task, State.reset.sleep.get t = .awake) ∧ State.reset.trace = [] ∧
  ∀ a, State.reset.image.read a = if describedOffset a then some (Config.powerOnByte a) else none

/-! ### Bus payloads -/

/-- CHWRITE as an instruction of its own completes in every state, without acceptance and whatever BUSY is (the model's
choice, log entry 15): one bus write of the five bytes, nothing but the channel's four image bytes changes, and they
are the bytes sent where auto-increment is on (30_encoding R102, R103; 20_memory R66, R67, decision D39). That the time
stands still over the bus write is the model's choice (log entry 35; 70_reset_and_hazards R279 gives no transaction
time). -/
def Obligations.ChwriteStoresItsFourBytes : Prop :=
  ∀ (ch : Channel) (onLow onHigh offLow offHigh : Byte) (s : State),
    ∃ t, exec (.chwrite ch onLow onHigh offLow offHigh) s = .next t ∧
      t.trace = s.trace ++
        [.write Config.pwmAddr [BitVec.ofNat 8 (0x06 + 4 * ch.val), onLow, onHigh, offLow, offHigh]] ∧
      SameRegisters s t ∧ SameWatchers s t ∧ t.busy = s.busy ∧ t.seq = s.seq ∧ t.env = s.env ∧
      SameImageOutside (InChannel ch) s t ∧
      (autoIncrement s.image = true →
        t.image.read (channelBase ch) = some onLow ∧ t.image.read (channelBase ch + 1) = some onHigh ∧
        t.image.read (channelBase ch + 2) = some offLow ∧ t.image.read (channelBase ch + 3) = some offHigh)

/-- REGWRITE as an instruction of its own completes in every state, without acceptance and whatever BUSY is (the
model's choice, log entry 15): one bus write of the two bytes, and the register holds the value, whatever
auto-increment is (30_encoding R106, decision D9; 20_memory R66, decision D39). That the time stands still over the bus
write is the model's choice (log entry 35; 70_reset_and_hazards R279 gives no transaction time). -/
def Obligations.RegwriteStoresItsByte : Prop :=
  ∀ (reg : CtrlReg) (value : Byte) (s : State),
    ∃ t, exec (.regwrite reg value) s = .next t ∧
      t.trace = s.trace ++ [.write Config.pwmAddr [ctrlOffset reg, value]] ∧
      SameRegisters s t ∧ SameWatchers s t ∧ t.busy = s.busy ∧ t.seq = s.seq ∧ t.env = s.env ∧
      SameImageOutside (fun a => a = (ctrlOffset reg).toNat) s t ∧
      t.image.read (ctrlOffset reg).toNat = some value

/-- A channel written with on = 0 and a count of at most 4095, auto-increment on, is high for the first `off`
ticks of a period (10_state R31, R32, decision D37). That this is so whatever the `MODE_SLEEP` bit of the image is, is the
model's choice (log entry 32; 60_exceptions R250 says nothing of it), and so is that it holds before the first INIT has
completed too (log entry 34; 70_reset_and_hazards R262: "not defined by any rule"). -/
def Obligations.ChannelIsHighForItsCount : Prop :=
  ∀ (ch : Channel) (off tick : Nat) (s : State), off ≤ 4095 → autoIncrement s.image = true →
    (s.channelWrite ch 0 off).image.output ch tick = some (decide (tick < off))

/-! ### INIT and SETCH -/

/-- INIT's trace and frame (40_pwm_driver R130): with `old` the answer of its one read, the sleep, prescale, restore and
wake writes, the sixteen zero writes and the eight servo writes, in that order, then its end; at least 5 ms pass; no
register of the block changes; every described offset of the image holds a byte. That the wait puts no item on the trace
is the model's reading (log entry 12; 93 U15 lists one), and the sleep byte and the bits' values are presumed (log entry
2, decision D10). -/
def Obligations.InitWritesItsSequence : Prop :=
  ∀ s : State, s.busy = false → ∃ t, exec .init s = .next t ∧
    Completed .init
      ([.read Config.pwmAddr 0x00#8 s.modeAnswer,
        ctrlItem .mode ((s.modeAnswer &&& ~~~modeRestart) ||| modeSleep), ctrlItem .prescale 121#8,
        ctrlItem .mode s.modeAnswer, ctrlItem .mode (s.modeAnswer ||| modeAI ||| modeRestart)] ++
        (List.finRange 16).map (fun ch => channelItem ch 0 0) ++
        (List.finRange 8).map (fun i => servoItem i (s.angleOf i))) s t ∧
    SameRegisters s t ∧ SameWatchers s t ∧ s.env.now + 5 ≤ t.env.now ∧
    t.env = { s.env with
      now := t.env.now, modeIn := s.env.modeIn.rest, latenessIn := s.env.latenessIn.rest } ∧
    ∀ a, describedOffset a = true → (t.image.read a).isSome

/-- What the controller holds after INIT, whatever it held before (70_reset_and_hazards R265, which the spec derives from
40_pwm_driver R130): the prescale, the mode byte with auto-increment set, zero counts on channels 0 to 7, each servo's
persisted angle on its channel, and nothing outside the described offsets changed. The bits' values are presumed (log
entry 2). -/
def Obligations.InitLeavesTheControllerReady : Prop :=
  ∀ s : State, s.busy = false → ∃ t, exec .init s = .next t ∧
    t.image.read 0xFE = some 121#8 ∧ t.image.read 0x00 = some (s.modeAnswer ||| modeAI ||| modeRestart) ∧
    autoIncrement t.image = true ∧
    (∀ ch : Channel, ch.val < 8 → ChannelHolds t.image ch 0 0) ∧
    (∀ i : Servo, ChannelHolds t.image (servoChannel i) 0 (ticks (s.angleOf i))) ∧
    SameImageOutside (fun a => describedOffset a = true) s t

/-- SETCH (40_pwm_driver R138): one write of its channel for a channel in 0..15, with the counts shown by the 12-bit
view where they are in range and auto-increment is on; nothing for another channel; no register of the block changes.
That the time stands still over the bus write is the model's choice (log entry 35; 70_reset_and_hazards R279 gives no
transaction time). -/
def Obligations.SetchWritesItsChannel : Prop :=
  ∀ (ch on off : Word) (s : State), s.busy = false →
    (∀ c : Channel, ch.toInt = (c.val : Int) → ∃ t, exec (.setch ch on off) s = .next t ∧
      Completed (.setch ch on off)
        [.write Config.pwmAddr [BitVec.ofNat 8 (0x06 + 4 * c.val), lo8 on.toInt, hi8 on.toInt, lo8 off.toInt,
          hi8 off.toInt]] s t ∧
      SameRegisters s t ∧ SameWatchers s t ∧ t.env = s.env ∧ ChannelWritten c on.toInt off.toInt s t ∧
      (autoIncrement s.image = true → 0 ≤ on.toInt ∧ on.toInt ≤ 4095 → 0 ≤ off.toInt ∧ off.toInt ≤ 4095 →
        t.image.onTick c = some on.toInt.toNat ∧ t.image.offTick c = some off.toInt.toNat)) ∧
    (ch.toInt < 0 ∨ ch.toInt > 15 → ∃ t, exec (.setch ch on off) s = .next t ∧
      Completed (.setch ch on off) [] s t ∧
      SameRegisters s t ∧ SameWatchers s t ∧ t.env = s.env ∧ t.image = s.image)

/-- SETCH of a channel outside 0..15 (40_pwm_driver R139): no bus write, no state change, and it completes. -/
def Obligations.SetchOfNoChannelDoesNothing : Prop :=
  ∀ (ch on off : Word) (s : State), s.busy = false → ch.toInt < 0 ∨ ch.toInt > 15 →
    ∃ t, exec (.setch ch on off) s = .next t ∧ Completed (.setch ch on off) [] s t ∧
      SameRegisters s t ∧ SameWatchers s t ∧ t.env = s.env ∧ t.image = s.image

/-- RESERVED: the packet is accepted, nothing else happens, and BUSY is 0 again in the same segment (30_encoding R98,
decision D4). -/
def Obligations.ReservedPacketDoesNothing : Prop :=
  ∀ (op : Byte) (operands : List Word) (s : State), s.busy = false →
    ∃ t, exec (.reserved op operands) s = .next t ∧ Completed (.reserved op operands) [] s t ∧
      SameRegisters s t ∧ SameWatchers s t ∧ t.env = s.env ∧ t.image = s.image

/-! ### SETANGLE and the tick map -/

/-- `ticks` is the exact quotient `(10 deg + 600) * 4096 / 20000` rounded toward zero, strictly increasing, within 0..4095
exactly for -60..1939, with the anchors of 41_servo R151 (decision D6) and R153 (decision D15). -/
def Obligations.TicksRoundTowardZero : Prop :=
  (∀ deg : Int, 0 ≤ 10 * deg + 600 →
    ticks deg * 20000 ≤ (10 * deg + 600) * 4096 ∧ (10 * deg + 600) * 4096 < (ticks deg + 1) * 20000) ∧
  (∀ deg : Int, 10 * deg + 600 < 0 →
    (10 * deg + 600) * 4096 ≤ ticks deg * 20000 ∧ (ticks deg - 1) * 20000 < (10 * deg + 600) * 4096) ∧
  (∀ a b : Int, a < b → ticks a < ticks b) ∧
  (∀ deg : Int, 0 ≤ ticks deg ∧ ticks deg ≤ 4095 ↔ -60 ≤ deg ∧ deg ≤ 1939) ∧
  ticks 0 = 122 ∧ ticks 90 = 307 ∧ ticks 180 = 491

/-- SETANGLE (41_servo R150): one write of `(0, ticks(deg))` on channel s + 7 for a servo in 1..8, nothing for another;
no register of the block changes, `ANGLE` included. That the time stands still over the bus write is the model's choice
(log entry 35; 70_reset_and_hazards R279 gives no transaction time). -/
def Obligations.SetangleDrivesItsServo : Prop :=
  ∀ (n deg : Word) (s : State), s.busy = false →
    (∀ i : Servo, n.toInt = (i.val : Int) + 1 → ∃ t, exec (.setangle n deg) s = .next t ∧
      Completed (.setangle n deg)
        [.write Config.pwmAddr [BitVec.ofNat 8 (0x26 + 4 * i.val), 0x00#8, 0x00#8, lo8 (ticks deg.toInt),
          hi8 (ticks deg.toInt)]] s t ∧
      SameRegisters s t ∧ SameWatchers s t ∧ t.env = s.env ∧
      ChannelWritten (servoChannel i) 0 (ticks deg.toInt) s t) ∧
    (n.toInt < 1 ∨ n.toInt > 8 → ∃ t, exec (.setangle n deg) s = .next t ∧ Completed (.setangle n deg) [] s t ∧
      SameRegisters s t ∧ SameWatchers s t ∧ t.env = s.env ∧ t.image = s.image)

/-! ### SWEEP -/

/-- The first segment of a SWEEP that has somewhere to go (41_servo R155, R156): the write of the angle one degree
nearer, then the register, then the pause; it ends with the segment that reaches the target (log entry 11), else it
stays in progress; nothing else changes. That the time stands still over the bus write, so that the wake time counts
from the time before it, is the model's choice (log entry 35; 70_reset_and_hazards R279 gives no transaction time). -/
def Obligations.SweepTakesOneDegree : Prop :=
  ∀ (n target delay : Word) (i : Servo) (s : State), s.busy = false → n.toInt = (i.val : Int) + 1 →
    s.angleOf i ≠ target.toInt →
    ∃ t, exec (.sweep n target delay) s = .next t ∧
      ∃ a, a = (if target.toInt > s.angleOf i then s.angleOf i + 1 else s.angleOf i - 1) ∧
        t.trace = s.trace ++
          ([.accepted [0x0403#16, n, target, delay], servoItem i a, .pause .cmd (max delay.toInt 0).toNat] ++
            if a = target.toInt then [.done .cmd] else []) ∧
        AngleSet i a s t ∧ ChannelWritten (servoChannel i) 0 (ticks a) s t ∧
        (a = target.toInt → Quiescent t) ∧
        (a ≠ target.toInt → t.busy = true ∧ t.seq = .sweep i target delay) ∧
        SameWatchers s t ∧ t.lastColor = s.lastColor ∧ t.env = s.env ∧
        t.sleep = { s.sleep with cmd := .sleepingUntil (s.env.now + (max delay.toInt 0).toNat) }

/-- A SWEEP of no servo in 1..8, or of one that stands at the target, does nothing and completes (41_servo R154, decision
D14; R159, which the spec derives from R155). -/
def Obligations.SweepWithoutDistanceDoesNothing : Prop :=
  ∀ (n target delay : Word) (s : State), s.busy = false →
    (n.toInt < 1 ∨ n.toInt > 8 ∨ ∃ i : Servo, n.toInt = (i.val : Int) + 1 ∧ s.angleOf i = target.toInt) →
    ∃ t, exec (.sweep n target delay) s = .next t ∧ Completed (.sweep n target delay) [] s t ∧
      SameRegisters s t ∧ SameWatchers s t ∧ t.env = s.env ∧ t.image = s.image

/-- A later segment of a SWEEP, whenever the scheduler chooses CMD: one degree, its write, its pause; the command ends with
the segment that reaches the target (41_servo R155, R156; log entry 11; when the chosen task runs, log entry 10). -/
def Obligations.SweepGoesOnOneDegree : Prop :=
  ∀ (s s' : State) (i : Servo) (target delay : Word), s.env.busIn = [] → s.nextTask = some (.cmd, s') →
    s.busy = true → s.seq = .sweep i target delay → s.angleOf i ≠ target.toInt →
    ∃ t, step s = .next t ∧
      ∃ a, a = (if target.toInt > s.angleOf i then s.angleOf i + 1 else s.angleOf i - 1) ∧
        t.trace = s.trace ++
          ([servoItem i a, .pause .cmd (max delay.toInt 0).toNat] ++ if a = target.toInt then [.done .cmd] else []) ∧
        AngleSet i a s t ∧ ChannelWritten (servoChannel i) 0 (ticks a) s t ∧
        (a = target.toInt → Quiescent t) ∧
        (a ≠ target.toInt → t.busy = true ∧ t.seq = .sweep i target delay) ∧
        SameWatchers s t ∧ t.lastColor = s.lastColor ∧
        t.env = { s.env with
          now := t.env.now, latenessIn := s.env.latenessIn.rest, choiceIn := s'.env.choiceIn } ∧
        t.sleep.dark = s.sleep.dark ∧ t.sleep.color = s.sleep.color ∧
        t.sleep.cmd = .sleepingUntil (t.env.now + (max delay.toInt 0).toNat)

/-- SWEEP converges (41_servo R155: "blocking until the persisted angle equals target exactly"; R156, R157, R158): alone
with the command sequencer, a SWEEP of `d` degrees is complete after `d` segments, its first among them; its trace is `d`
writes, each with its pause, of every angle strictly after the start up to the target; it leaves the servo at the target,
the others alone, and holds the port for at least `d` delays. That it is complete after exactly `d` segments, and that the
port is held by the sleep of CMD after BUSY has fallen, is the model's reading (log entry 11). -/
def Obligations.SweepConvergesOnItsTarget : Prop :=
  ∀ (n target delay : Word) (i : Servo) (s t : State) (d : Nat), s.busy = false → CmdAlone s →
    n.toInt = (i.val : Int) + 1 → d = (target.toInt - s.angleOf i).natAbs → 1 ≤ d →
    exec (.sweep n target delay) s = .next t →
    ∃ u, Host.Core.run Sys2Proof.core (d - 1) t = .next u ∧ Quiescent u ∧
      AngleSet i target.toInt s u ∧
      u.trace = s.trace ++ commandItems (.sweep n target delay)
        ((List.range d).flatMap fun j =>
          [servoItem i (if target.toInt > s.angleOf i then s.angleOf i + (j + 1 : Nat) else s.angleOf i - (j + 1 : Nat)),
            .pause .cmd (max delay.toInt 0).toNat]) ∧
      s.env.now + d * (max delay.toInt 0).toNat ≤ (u.sleep.get .cmd).time

/-! ### MOVESYNC -/

/-- The snap (41_servo R163): when every delta is 0 or the duration is not positive, each of the N servos is written
once with its clamped target and its register updated, in ascending order, in one segment without a pause; the other
servos, and everything else, stay. That the time stands still over the bus writes is the model's choice (log entry 35;
70_reset_and_hazards R279 gives no transaction time). -/
def Obligations.MovesyncSnaps : Prop :=
  ∀ (dur : Word) (targets : List Word) (s : State), s.busy = false → targets.length ≤ 8 →
    moveDistance targets s = 0 ∨ dur.toInt ≤ 0 →
    ∃ t, exec (.movesync dur targets) s = .next t ∧
      Completed (.movesync dur targets)
        (List.zipWith (fun i w => servoItem i (clamp w.toInt 0 180)) (List.finRange 8) targets) s t ∧
      (∀ i : Servo, t.angleOf i = targetAngle targets s i) ∧
      SameImageOutside (InTargetChannels targets) s t ∧
      (autoIncrement s.image = true → ∀ i, InTargets targets i →
        ChannelHolds t.image (servoChannel i) 0 (ticks (targetAngle targets s i))) ∧
      SameWatchers s t ∧ t.lastColor = s.lastColor ∧ t.sleep = s.sleep ∧ t.env = s.env

/-- The start of an animated MOVESYNC (41_servo R160 to R167): `steps` is the largest distance, `frameDelay` is `max(1,
floor(dur / steps))`, the lanes are the N servos with their starts, clamped targets and deltas; the first frame writes
and updates every lane with a delta, ascending, and pauses; BUSY stays 1. That the time stands still over the bus
writes, so that the wake time counts from the time before them, is the model's choice (log entry 35;
70_reset_and_hazards R279 gives no transaction time). -/
def Obligations.MovesyncStartsWithItsFirstFrame : Prop :=
  ∀ (dur : Word) (targets : List Word) (s : State), s.busy = false → targets.length ≤ 8 →
    1 ≤ moveDistance targets s → 0 < dur.toInt →
    ∃ t m, exec (.movesync dur targets) s = .next t ∧ t.busy = true ∧ t.seq = .move m ∧
      m.k = 1 ∧ m.steps = moveDistance targets s ∧
      (m.frameDelay : Int) = max 1 (dur.toInt / (moveDistance targets s : Int)) ∧
      m.lanes = List.zipWith
        (fun i w => Lane.mk i (clamp w.toInt 0 180) (s.angleOf i) (clamp w.toInt 0 180 - s.angleOf i))
        (List.finRange 8) targets ∧
      t.trace = s.trace ++
        (.accepted (header 0x05#8 (targets.length + 1) :: dur :: targets) ::
          ((m.lanes.filter fun l => decide (l.delta ≠ 0)).map (fun l =>
            servoItem l.servo (framePosition l.start l.delta 1 m.steps)) ++ [.pause .cmd m.frameDelay])) ∧
      (∀ l ∈ m.lanes, t.angleOf l.servo =
        if l.delta = 0 then s.angleOf l.servo else framePosition l.start l.delta 1 m.steps) ∧
      (∀ i : Servo, ¬ InTargets targets i → t.angleOf i = s.angleOf i) ∧
      SameImageOutside (InMovingChannels m.lanes) s t ∧
      (autoIncrement s.image = true → ∀ l ∈ m.lanes, l.delta ≠ 0 →
        ChannelHolds t.image (servoChannel l.servo) 0 (ticks (framePosition l.start l.delta 1 m.steps))) ∧
      SameWatchers s t ∧ t.lastColor = s.lastColor ∧ t.env = s.env ∧
      t.sleep = { s.sleep with cmd := .sleepingUntil (s.env.now + m.frameDelay) }

/-- A later frame of an animated MOVESYNC, whenever the scheduler chooses CMD (41_servo R165, R167): frame `k + 1` from the
exact positions, lanes with a delta only, ascending, then the pause (decisions D19, D20; when the chosen task runs, log
entry 10). -/
def Obligations.MovesyncWritesItsNextFrame : Prop :=
  ∀ (s s' : State) (m : Move), Inv s → s.env.busIn = [] → s.nextTask = some (.cmd, s') → s.seq = .move m →
    m.k < m.steps →
    ∃ t, step s = .next t ∧ t.busy = true ∧ t.seq = .move { m with k := m.k + 1 } ∧
      t.trace = s.trace ++
        ((m.lanes.filter fun l => decide (l.delta ≠ 0)).map (fun l =>
          servoItem l.servo (framePosition l.start l.delta (m.k + 1) m.steps)) ++ [.pause .cmd m.frameDelay]) ∧
      (∀ l ∈ m.lanes, t.angleOf l.servo =
        if l.delta = 0 then s.angleOf l.servo else framePosition l.start l.delta (m.k + 1) m.steps) ∧
      (∀ i : Servo, (∀ l ∈ m.lanes, l.servo ≠ i) → t.angleOf i = s.angleOf i) ∧
      SameImageOutside (InMovingChannels m.lanes) s t ∧
      (autoIncrement s.image = true → ∀ l ∈ m.lanes, l.delta ≠ 0 →
        ChannelHolds t.image (servoChannel l.servo) 0 (ticks (framePosition l.start l.delta (m.k + 1) m.steps))) ∧
      SameWatchers s t ∧ t.lastColor = s.lastColor ∧
      t.env = { s.env with
        now := t.env.now, latenessIn := s.env.latenessIn.rest, choiceIn := s'.env.choiceIn } ∧
      t.sleep = { s.sleep with cmd := .sleepingUntil (t.env.now + m.frameDelay) }

/-- The last segment of an animated MOVESYNC (41_servo R168): every lane, those without a delta included, is written with
its clamped target and its register updated, ascending, and the command ends. CMD is awake after it: log entry 28. -/
def Obligations.MovesyncEndsWithItsFinalSnap : Prop :=
  ∀ (s s' : State) (m : Move), Inv s → s.env.busIn = [] → s.nextTask = some (.cmd, s') → s.seq = .move m →
    m.k = m.steps →
    ∃ t, step s = .next t ∧ Quiescent t ∧
      t.trace = s.trace ++ (m.lanes.map (fun l => servoItem l.servo l.target) ++ [.done .cmd]) ∧
      (∀ l ∈ m.lanes, t.angleOf l.servo = l.target) ∧
      (∀ i : Servo, (∀ l ∈ m.lanes, l.servo ≠ i) → t.angleOf i = s.angleOf i) ∧
      SameImageOutside (fun a => ∃ l ∈ m.lanes, InChannel (servoChannel l.servo) a) s t ∧
      (autoIncrement s.image = true → ∀ l ∈ m.lanes, ChannelHolds t.image (servoChannel l.servo) 0 (ticks l.target)) ∧
      SameWatchers s t ∧ t.lastColor = s.lastColor ∧
      t.env = { s.env with
        now := t.env.now, latenessIn := s.env.latenessIn.rest, choiceIn := s'.env.choiceIn } ∧
      t.sleep = { s.sleep with cmd := .awake }

/-- Under every schedule, a step during a MOVESYNC leaves it in progress with the same lanes, `steps` and `frameDelay` and
at most one more frame, or ends it with every lane at its clamped target; the servos without a lane never move (41_servo
R170, R171; 60_exceptions R238). -/
def Obligations.MovesyncEndsAtItsTargetsUnderEverySchedule : Prop :=
  ∀ (s t : State) (m : Move), Inv s → s.seq = .move m → step s = .next t →
    (∀ i : Servo, (∀ l ∈ m.lanes, l.servo ≠ i) → t.angleOf i = s.angleOf i) ∧
    ((t.busy = true ∧ ∃ k, t.seq = .move { m with k := k } ∧ m.k ≤ k ∧ k ≤ m.k + 1) ∨
      (Quiescent t ∧ m.k = m.steps ∧ ∀ l ∈ m.lanes, t.angleOf l.servo = l.target))

/-- MOVESYNC reaches its targets (41_servo R170: "after `moveSynchronized` returns, persisted angle for every channel
equals its clamped target exactly"; R169): alone with the command sequencer it is complete after one segment if it snaps,
else after `steps + 1`, with every servo at its clamped target and the servos beyond N as they were. -/
def Obligations.MovesyncReachesItsTargets : Prop :=
  ∀ (dur : Word) (targets : List Word) (s t : State), s.busy = false → CmdAlone s → targets.length ≤ 8 →
    exec (.movesync dur targets) s = .next t →
    ∃ u, Host.Core.run Sys2Proof.core (if dur.toInt ≤ 0 then 0 else moveDistance targets s) t = .next u ∧
      Quiescent u ∧ (∀ i : Servo, u.angleOf i = targetAngle targets s i)

/-- A frame position rounds the exact position to the nearest integer, halves up; it lies between the start and the
target, and is the target in the last frame (41_servo R165, R166, decision D19). -/
def Obligations.FramePositionsLieBetween : Prop :=
  ∀ (start delta : Int) (k steps : Nat), 1 ≤ steps → k ≤ steps →
    (2 * (start * steps + k * delta) - steps < 2 * steps * framePosition start delta k steps ∧
      2 * steps * framePosition start delta k steps ≤ 2 * (start * steps + k * delta) + steps) ∧
    (0 ≤ delta → start ≤ framePosition start delta k steps ∧ framePosition start delta k steps ≤ start + delta) ∧
    (delta ≤ 0 → start + delta ≤ framePosition start delta k steps ∧ framePosition start delta k steps ≤ start) ∧
    (k = steps → framePosition start delta k steps = start + delta)

/-! ### RUN and LFSTEP -/

/-- RUN (42_drive R180): for a motor in 1..4 two writes, first the channel that gets 0, then the other with the
magnitude of `clamp(16 * speed, -4095, 4095)`; nothing for another motor; no register of the block changes. That the
time stands still over the bus writes is the model's choice (log entry 35; 70_reset_and_hazards R279 gives no
transaction time). -/
def Obligations.RunWritesTheZeroFirst : Prop :=
  ∀ (m speed : Word) (s : State), s.busy = false →
    (∀ (k : Fin 4) (fwd rev : Channel) (v : Int), m.toInt = (k.val : Int) + 1 → fwd.val = 2 * k.val →
      rev.val = 2 * k.val + 1 → v = clamp (16 * speed.toInt) (-4095) 4095 →
      ∃ t, exec (.run m speed) s = .next t ∧
        Completed (.run m speed)
          (if 0 ≤ v then [channelItem rev 0 0, channelItem fwd 0 v] else [channelItem fwd 0 0, channelItem rev 0 (-v)])
          s t ∧
        SameRegisters s t ∧ SameWatchers s t ∧ t.env = s.env ∧
        SameImageOutside (fun a => InChannel fwd a ∨ InChannel rev a) s t ∧
        (autoIncrement s.image = true →
          ChannelHolds t.image fwd 0 (max v 0) ∧ ChannelHolds t.image rev 0 (max (-v) 0))) ∧
    (m.toInt < 1 ∨ m.toInt > 4 → ∃ t, exec (.run m speed) s = .next t ∧ Completed (.run m speed) [] s t ∧
      SameRegisters s t ∧ SameWatchers s t ∧ t.env = s.env ∧ t.image = s.image)

/-- RUN of a motor outside 1..4 (42_drive R182): no bus write, no state change. -/
def Obligations.RunOfNoMotorDoesNothing : Prop :=
  ∀ (m speed : Word) (s : State), s.busy = false → m.toInt < 1 ∨ m.toInt > 4 →
    ∃ t, exec (.run m speed) s = .next t ∧ Completed (.run m speed) [] s t ∧
      SameRegisters s t ∧ SameWatchers s t ∧ t.env = s.env ∧ t.image = s.image

/-- After a RUN of a motor in 1..4, auto-increment on, at most one of the motor's two channels has a count
other than 0, and none above 4095 (42_drive R181, R183, R184, decision D21). -/
def Obligations.RunNeverLeavesBothChannelsHigh : Prop :=
  ∀ (m speed : Word) (k : Fin 4) (fwd rev : Channel) (s t : State), s.busy = false → m.toInt = (k.val : Int) + 1 →
    fwd.val = 2 * k.val → rev.val = 2 * k.val + 1 → autoIncrement s.image = true →
    exec (.run m speed) s = .next t →
    ∃ f r, t.image.offTick fwd = some f ∧ t.image.offTick rev = some r ∧ (f = 0 ∨ r = 0) ∧ f ≤ 4095 ∧ r ≤ 4095

/-- LFSTEP (42_drive R187): four writes in channel order 1, 0, 3, 2, with the speeds of the decision table; no register
of the block changes. That the motors are 1 and 2 and the reduced speed is 0 is no rule of the source but the spec's
decision (00_scope R8, D22, D23; log entry 3, a choice). That the time stands still over the bus writes is the model's
choice (log entry 35; 70_reset_and_hazards R279 gives no transaction time). -/
def Obligations.LfstepFollowsTheDecisionTable : Prop :=
  ∀ (maxSpeed left right : Word) (s : State) (sp l r : Int), s.busy = false → sp = clamp maxSpeed.toInt 0 255 →
    (l, r) = (if left = 0#16 then if right = 0#16 then (sp, sp) else (0, sp)
      else if right = 0#16 then (sp, 0) else (0, 0)) →
    ∃ t, exec (.lfstep maxSpeed left right) s = .next t ∧
      Completed (.lfstep maxSpeed left right)
        [channelItem 1 0 0, channelItem 0 0 (16 * l), channelItem 3 0 0, channelItem 2 0 (16 * r)] s t ∧
      SameRegisters s t ∧ SameWatchers s t ∧ t.env = s.env ∧
      SameImageOutside (fun a => 0x06 ≤ a ∧ a < 0x16) s t ∧
      (autoIncrement s.image = true →
        ChannelHolds t.image 0 0 (16 * l) ∧ ChannelHolds t.image 1 0 0 ∧
        ChannelHolds t.image 2 0 (16 * r) ∧ ChannelHolds t.image 3 0 0)

/-! ### Watchers -/

/-- WDARK (43_watchers R200): the entry `(thr, false)` appended while `WCOUNT < NWATCH`, the dark watcher Running, and nothing
else. -/
def Obligations.WdarkRegistersItsThreshold : Prop :=
  ∀ (thr : Word) (s : State), s.busy = false →
    ∃ t, exec (.wdark thr) s = .next t ∧ Completed (.wdark thr) [] s t ∧ t.darkRun = .running ∧
      (match Config.nwatch with
        | some n => t.watch = if s.wcount < n then s.watch ++ [⟨thr, false⟩] else s.watch
        | none => t.watch = s.watch ++ [⟨thr, false⟩]) ∧
      SameRegisters s t ∧ t.colorRun = s.colorRun ∧ t.env = s.env ∧ t.image = s.image

/-- WCOLOR (43_watchers R202): the colour watcher Running, and nothing else; `LASTCOLOR` is not touched. -/
def Obligations.WcolorStartsTheColourWatcher : Prop :=
  ∀ s : State, s.busy = false →
    ∃ t, exec .wcolor s = .next t ∧ Completed .wcolor [] s t ∧ t.colorRun = .running ∧
      SameRegisters s t ∧ t.watch = s.watch ∧ t.darkRun = s.darkRun ∧ t.env = s.env ∧ t.image = s.image

/-- DARKPOLL (43_watchers R206): one sample, used up; in append order an event, with the entry's threshold, for each entry
dark now and not at its previous poll; every `last` updated; one pause; and nothing else (R208, R213), but that the time
and the model's own feeds go on (log entries 8, 9, 10). -/
def Obligations.DarkpollRaisesRisingEdges : Prop :=
  ∀ s s' : State, s.env.busIn = [] → s.nextTask = some (.dark, s') →
    ∃ t, step s = .next t ∧
      t.trace = s.trace ++
        ([.ambient s.ambientAnswer] ++
          (s.watch.filter fun w => decide ((s.ambientAnswer.toNat : Int) < w.thr.toInt) && !w.last).map
            (fun w => .event Config.evDark w.thr) ++
          [.pause .dark Config.darkPollMs]) ∧
      t.watch = s.watch.map
        (fun w => Watcher.mk w.thr (decide ((s.ambientAnswer.toNat : Int) < w.thr.toInt))) ∧
      t.sleep = { s.sleep with dark := .sleepingUntil (t.env.now + Config.darkPollMs) } ∧
      t.angle = s.angle ∧ t.darkRun = s.darkRun ∧ t.colorRun = s.colorRun ∧ t.lastColor = s.lastColor ∧
      t.busy = s.busy ∧ t.seq = s.seq ∧ t.image = s.image ∧ s.env.now ≤ t.env.now ∧
      t.env = { s.env with
        now := t.env.now, latenessIn := s.env.latenessIn.rest, choiceIn := s'.env.choiceIn,
        ambientIn := s.env.ambientIn.rest }

/-- COLORPOLL (43_watchers R210): one sample, used up; an event with it when it differs from `LASTCOLOR`; `LASTCOLOR`
updated; one pause; and nothing else (R213), but that the time and the model's own feeds go on (log entries 8, 9, 10). -/
def Obligations.ColorpollRaisesOnChange : Prop :=
  ∀ s s' : State, s.env.busIn = [] → s.nextTask = some (.color, s') →
    ∃ t, step s = .next t ∧
      t.trace = s.trace ++
        ([.color s.colorAnswer] ++ (if s.colorAnswer = s.lastColor then [] else [.event Config.evColor s.colorAnswer]) ++
          [.pause .color Config.colorPollMs]) ∧
      t.lastColor = s.colorAnswer ∧
      t.sleep = { s.sleep with color := .sleepingUntil (t.env.now + Config.colorPollMs) } ∧
      t.angle = s.angle ∧ SameWatchers s t ∧
      t.busy = s.busy ∧ t.seq = s.seq ∧ t.image = s.image ∧ s.env.now ≤ t.env.now ∧
      t.env = { s.env with
        now := t.env.now, latenessIn := s.env.latenessIn.rest, choiceIn := s'.env.choiceIn,
        colorIn := s.env.colorIn.rest }

/-- "Nothing but reset makes either Idle again" (10_state R36), and no entry is ever removed or reordered (10_state R35). -/
def Obligations.WatchersNeverStopAndKeepTheirEntries : Prop :=
  ∀ s t : State, step s = .next t →
    (s.darkRun = .running → t.darkRun = .running) ∧ (s.colorRun = .running → t.colorRun = .running) ∧
      s.watch.map Watcher.thr <+: t.watch.map Watcher.thr

/-! ### The whole machine -/

/-- The invariant holds right after reset. -/
def Obligations.ResetMeetsTheInvariant : Prop := Inv State.reset

/-- Every step keeps the invariant: the image canonical, with a byte at each described offset and at no other, `LASTCOLOR` a
member of `COLORS`, BUSY with `SEQ`, the command in progress legal and its angles where its last write put them, the
watcher table within its capacity. That a SWEEP in progress is never at its target is the model's reading of 41_servo
section 3 (log entry 11). -/
def Obligations.EveryStepKeepsTheInvariant : Prop :=
  ∀ s t : State, Inv s → step s = .next t → Inv t

/-- The conditional invariant of 10_state R22 (decision D15): while no SWEEP is given a target outside 0..180, every step
keeps every servo angle in 0..180. -/
def Obligations.InRangeSweepsKeepAnglesInRange : Prop :=
  ∀ s t : State, Inv s → AnglesInRange s → SeqInRange s → (∀ i, s.presented = some i → TargetInRange i) →
    step s = .next t → AnglesInRange t ∧ SeqInRange t

/-- The trace only grows, and every bus write on it goes to the PWM controller with one of the two payload formats
(10_state R45, decision D1; 30_encoding R101, which the spec derives from 20_memory R62). -/
def Obligations.EveryStepExtendsTheTraceWithPayloads : Prop :=
  ∀ s t : State, step s = .next t → ∃ items, t.trace = s.trace ++ items ∧ ∀ it ∈ items, it.isPayload

/-- Once the image's `MODE` has auto-increment set, no task of the block clears it (20_memory R67, 40_pwm_driver R134,
decisions D10, D39; which bit it is, is presumed, log entry 2). -/
def Obligations.AutoIncrementStaysOn : Prop :=
  ∀ s t : State, s.env.busIn = [] → autoIncrement s.image = true → step s = .next t → autoIncrement t.image = true

/-- Who writes what (10_state R20, R23): only SWEEP and MOVESYNC write `ANGLE`, only WDARK the dark watcher's table and
run flag, only WCOLOR the colour watcher's; no command writes `LASTCOLOR`; only INIT's read takes a mode answer, no
command takes a sample, and no command raises an event (60_exceptions R233). That a command other than INIT leaves the
time as it is, its bus writes included, is the model's choice (log entry 35; 70_reset_and_hazards R279 gives no
transaction time). -/
def Obligations.EachRegisterHasOneWriter : Prop :=
  ∀ (i : Instr) (s t : State), exec i s = .next t →
    ((∀ n target delay, i ≠ .sweep n target delay) → (∀ dur targets, i ≠ .movesync dur targets) → t.angle = s.angle) ∧
    ((∀ thr, i ≠ .wdark thr) → t.watch = s.watch ∧ t.darkRun = s.darkRun) ∧
    (i ≠ .wcolor → t.colorRun = s.colorRun) ∧ t.lastColor = s.lastColor ∧
    (i ≠ .init → t.env = s.env) ∧ t.env.ambientIn = s.env.ambientIn ∧ t.env.colorIn = s.env.colorIn ∧
    ∃ items, t.trace = s.trace ++ items ∧ ∀ it ∈ items, it.isEvent = false

/-! ### Parameters -/

/-- The laws that 00_scope R8 puts on the open parameters: two distinct bus addresses (20_memory R61), two distinct event
ids (30_encoding R107), a table capacity of at least 1 or none, positive poll intervals (43_watchers R212), a closed set of
colours with `None`, code 0, in it (30_encoding R108), and every answer of `ColorRead` a member of it (43_watchers R204).
The values are opaque constants (log entries 1, 4, 5). -/
def Obligations.OpenParametersAreLegal : Prop :=
  Config.sensAddr ≠ Config.pwmAddr ∧ Config.evColor ≠ Config.evDark ∧
  (match Config.nwatch with | some n => 1 ≤ n | none => True) ∧
  1 ≤ Config.darkPollMs ∧ 1 ≤ Config.colorPollMs ∧ 0#16 ∈ Config.colors ∧ ∀ s : State, s.colorAnswer ∈ Config.colors

/-! ### Fair runs -/

/-- What fairness gives (60_exceptions R245: "a paused command resumes, a Running watcher polls again"; "A command, by
contrast, always ends after finitely many of its own segments"): in every infinite run that is fair, whatever the outside
presents, a command in progress ends, and each Running watcher polls again. Fairness is a premise, as 93 U10 asks; `Fair`
reads R245 with a paused task eligible, as a model may (log entry 24). -/
def Obligations.FairRunsEndCommandsAndKeepPolling : Prop :=
  ∀ r : Nat → State, IsRun r → Fair r → Inv (r 0) → ∀ n,
    ((r n).busy = true → ∃ m, n ≤ m ∧ Quiescent (r m)) ∧
    ((r n).darkRun = .running → ∃ m items, n ≤ m ∧
      (r (m + 1)).trace = (r m).trace ++ .ambient (r m).ambientAnswer :: items) ∧
    ((r n).colorRun = .running → ∃ m items, n ≤ m ∧
      (r (m + 1)).trace = (r m).trace ++ .color (r m).colorAnswer :: items)
end

