-- ==== Sys2Proof/Laws/Memory.lean ====
section
/-! SUPPORT. The register image: read after write, and that every operation on it keeps the canonical form. -/

namespace Sys2Proof.Machine

@[simp] theorem Memory.read_nil (a : Nat) : Memory.read [] a = none := rfl

theorem Memory.read_cons (x : Nat) (c : Byte) (m : Memory) (a : Nat) :
    Memory.read ((x, c) :: m) a = if x = a then some c else Memory.read m a := rfl

/-- A byte reads as written, and every other offset reads as before. -/
theorem Memory.read_write (m : Memory) (o : Nat) (b : Byte) (a : Nat) :
    (Memory.write m o b).read a = if a = o then some b else Memory.read m a := by
  induction m with
  | nil => simp [Memory.write, Memory.read_cons, eq_comm]
  | cons c m ih =>
    obtain ⟨x, c⟩ := c
    unfold Memory.write
    split
    · by_cases h : a = o
      · simp [Memory.read_cons, h]
      · simp [Memory.read_cons, h, Ne.symm h]
    · split
      · subst x
        by_cases h : a = o
        · simp [Memory.read_cons, h]
        · simp [Memory.read_cons, h, Ne.symm h]
      · rw [Memory.read_cons, ih, Memory.read_cons]
        by_cases hx : x = a
        · subst hx; simp [show ¬ x = o from fun e => by omega]
        · simp [hx]

/-- The offsets listed after a write: those before and the one written. -/
theorem Memory.mem_write {m : Memory} {o : Nat} {b : Byte} {c : Host.Cell} (h : c ∈ Memory.write m o b) :
    c.1 = o ∨ c ∈ m := by
  induction m with
  | nil => simp [Memory.write] at h; simp [h]
  | cons d m ih =>
    obtain ⟨x, d⟩ := d
    unfold Memory.write at h
    split at h
    · rcases List.mem_cons.1 h with rfl | h
      · exact .inl rfl
      · exact .inr h
    · split at h
      · rcases List.mem_cons.1 h with rfl | h
        · exact .inl rfl
        · exact .inr (List.mem_cons_of_mem _ h)
      · rcases List.mem_cons.1 h with rfl | h
        · exact .inr (List.mem_cons_self ..)
        · exact (ih h).imp_right (List.mem_cons_of_mem _)

theorem Memory.wf_cons {x : Nat} {c : Byte} {m : Memory} :
    Memory.wf ((x, c) :: m) ↔ (∀ d ∈ m, x < d.1) ∧ Memory.wf m := by
  simp [Memory.wf, List.pairwise_cons]

/-- A write keeps the canonical form. -/
theorem Memory.wf_write {m : Memory} (h : Memory.wf m) (o : Nat) (b : Byte) : Memory.wf (Memory.write m o b) := by
  induction m with
  | nil => simp [Memory.write, Memory.wf]
  | cons d m ih =>
    obtain ⟨x, d⟩ := d
    obtain ⟨hx, hm⟩ := Memory.wf_cons.1 h
    unfold Memory.write
    split
    · rename_i ho
      refine Memory.wf_cons.2 ⟨fun e he => ?_, h⟩
      rcases List.mem_cons.1 he with rfl | he
      · exact ho
      · exact ho.trans (hx e he)
    · split
      · rename_i ho; subst ho
        exact Memory.wf_cons.2 ⟨hx, hm⟩
      · refine Memory.wf_cons.2 ⟨fun e he => ?_, ih hm⟩
        rcases Memory.mem_write he with he | he
        · omega
        · exact hx e he

/-- A write at a described offset keeps the image at described offsets. -/
theorem Memory.described_write {m : Memory} (h : Memory.described m) {o : Nat} (ho : describedOffset o = true) (b : Byte) :
    Memory.described (Memory.write m o b) := fun c hc => by
  rcases Memory.mem_write hc with e | e
  · rw [e]; exact ho
  · exact h c e

@[simp] theorem Memory.writeBytes_nil (m : Memory) (o : Nat) : Memory.writeBytes m o [] = m := rfl

theorem Memory.writeBytes_cons (m : Memory) (o : Nat) (b : Byte) (bs : List Byte) :
    Memory.writeBytes m o (b :: bs) = Memory.writeBytes (Memory.write m o b) (o + 1) bs := rfl

/-- Byte j of a bus write is at offset `o + j`, and every other offset reads as before (20_memory R66). -/
theorem Memory.read_writeBytes (bs : List Byte) (m : Memory) (o a : Nat) :
    (Memory.writeBytes m o bs).read a = if o ≤ a ∧ a < o + bs.length then bs[a - o]? else Memory.read m a := by
  induction bs generalizing m o with
  | nil => simp
  | cons b bs ih =>
    rw [Memory.writeBytes_cons, ih, Memory.read_write]
    by_cases h : a = o
    · subst h; simp
    · by_cases h1 : o + 1 ≤ a ∧ a < o + 1 + bs.length
      · have e : a - o = (a - (o + 1)) + 1 := by omega
        rw [if_pos h1, if_pos (by simp; omega), e, List.getElem?_cons_succ]
      · rw [if_neg h1, if_neg h, if_neg (by simp; omega)]

theorem Memory.wf_writeBytes (bs : List Byte) {m : Memory} (h : Memory.wf m) (o : Nat) :
    Memory.wf (Memory.writeBytes m o bs) := by
  induction bs generalizing m o with
  | nil => exact h
  | cons b bs ih => exact ih (Memory.wf_write h o b) (o + 1)

theorem Memory.described_writeBytes (bs : List Byte) {m : Memory} (h : Memory.described m) (o : Nat)
    (ho : ∀ a, o ≤ a → a < o + bs.length → describedOffset a = true) : Memory.described (Memory.writeBytes m o bs) := by
  induction bs generalizing m o with
  | nil => exact h
  | cons b bs ih =>
    refine ih (Memory.described_write h (ho o le_rfl (by simp)) b) (o + 1) fun a h1 h2 => ho a (by omega) ?_
    simp; omega

/-- A write leaves a byte at every offset that held one. -/
theorem Memory.complete_writeBytes (bs : List Byte) {m : Memory} (h : Memory.complete m) (o : Nat) :
    Memory.complete (Memory.writeBytes m o bs) := fun a ha => by
  rw [Memory.read_writeBytes]
  split
  · rw [List.getElem?_eq_getElem (by omega)]; rfl
  · exact h a ha

/-! ### After power-on -/

/-- A list of offsets, each with its byte, reads so. -/
theorem Memory.read_map (f : Nat → Byte) (l : List Nat) (a : Nat) :
    Memory.read (l.map fun x => (x, f x)) a = if a ∈ l then some (f a) else none := by
  induction l with
  | nil => rfl
  | cons x l ih =>
    rw [List.map_cons, Memory.read_cons, ih]
    by_cases h : x = a
    · subst h; simp
    · simp [h, Ne.symm h]

/-- The image's offsets are those the spec describes (10_state R30). -/
theorem mem_imageOffsets {a : Nat} : a ∈ imageOffsets ↔ describedOffset a = true := by
  simp only [imageOffsets, describedOffset, List.mem_cons, List.mem_append, List.mem_map, List.mem_range,
    List.not_mem_nil, or_false, Bool.or_eq_true, Bool.and_eq_true, decide_eq_true_eq, beq_iff_eq]
  constructor
  · rintro (h | ⟨x, h, rfl⟩ | h) <;> omega
  · rintro ((h | h) | h)
    · exact .inl h
    · exact .inr (.inl ⟨a - 6, by omega, by omega⟩)
    · exact .inr (.inr h)

/-- Any byte in every register, and no byte elsewhere (10_state R50). -/
theorem Memory.read_powerOn (a : Nat) :
    Memory.powerOn.read a = if describedOffset a then some (Config.powerOnByte a) else none := by
  rw [Memory.powerOn, Memory.read_map]
  simp only [mem_imageOffsets]

theorem Memory.powerOn_wf : Memory.powerOn.wf := by
  have e : Memory.powerOn.map Prod.fst = imageOffsets := by
    rw [Memory.powerOn, List.map_map]; exact List.map_id _
  rw [Memory.wf, e]
  decide

theorem Memory.powerOn_described : Memory.powerOn.described := fun c hc => by
  obtain ⟨a, ha, rfl⟩ := List.mem_map.1 hc
  exact mem_imageOffsets.1 ha

theorem Memory.powerOn_complete : Memory.powerOn.complete := fun a ha => by
  rw [Memory.read_powerOn, if_pos ha]; rfl

theorem State.reset_image_wf : Memory.wf State.reset.image := Memory.powerOn_wf

end Sys2Proof.Machine
end

