-- ==== Sys2Proof/Laws/Operands.lean ====
section
/-! SUPPORT. What the operand functions give: which identity an operand names, the offsets of channels, the clamps, and
the frame positions of MOVESYNC. -/

namespace Sys2Proof.Machine

/-! ### Identities -/

theorem channelOperand_val (c : Channel) : channelOperand (c.val : Int) = some c := by
  have h : (0 : Int) ≤ (c.val : Int) ∧ (c.val : Int) ≤ 15 := by omega
  rw [channelOperand, dif_pos h]
  congr 1

theorem channelOperand_none {ch : Int} (h : ch < 0 ∨ ch > 15) : channelOperand ch = none := by
  rw [channelOperand, dif_neg (by omega)]

/-- The channel an operand names is the one with its number. -/
theorem channelOperand_eq_some {ch : Int} {c : Channel} (h : channelOperand ch = some c) : ch = (c.val : Int) := by
  unfold channelOperand at h
  split at h
  · simp only [Option.some.injEq] at h; subst h; simp; omega
  · exact absurd h (by simp)

theorem servoOperand_number (i : Servo) : servoOperand (servoNumber i) = some i := by
  have h : 1 ≤ servoNumber i ∧ servoNumber i ≤ 8 := by unfold servoNumber; omega
  rw [servoOperand, dif_pos h]
  congr 1
  ext
  simp [servoNumber]

theorem servoOperand_none {n : Int} (h : n < 1 ∨ n > 8) : servoOperand n = none := by
  rw [servoOperand, dif_neg (by omega)]

/-- The servo an operand names is the one with its number. -/
theorem servoOperand_eq_some {n : Int} {i : Servo} (h : servoOperand n = some i) : n = servoNumber i := by
  unfold servoOperand at h
  split at h
  · simp only [Option.some.injEq] at h; subst h; simp [servoNumber]; omega
  · exact absurd h (by simp)

/-- Servo s drives channel s + 7 (10_state R24). -/
theorem servoNumber_add_seven (i : Servo) : servoNumber i + 7 = ((servoChannel i).val : Int) := by
  simp [servoNumber, servoChannel]; omega

/-! ### Offsets -/

@[simp] theorem chreg_toNat (ch : Channel) : (chreg ch).toNat = channelBase ch := by
  simp only [chreg, channelBase, BitVec.toNat_ofNat]
  omega

/-- The channel at a channel's own offset is that channel (30_encoding R103). -/
@[simp] theorem channelAt_chreg (ch : Channel) : channelAt (chreg ch) = some ch := by
  unfold channelAt
  have h := chreg_toNat ch
  simp only [channelBase] at h
  rw [dif_pos (by omega)]
  congr 1
  ext
  simp only
  omega

/-- An offset at which a channel's block starts is that channel's (30_encoding R103). -/
theorem chreg_of_channelAt {a : Byte} {ch : Channel} (h : channelAt a = some ch) : chreg ch = a := by
  unfold channelAt at h
  split at h
  · rename_i hc
    simp only [Option.some.injEq] at h
    subst h
    apply BitVec.eq_of_toNat_eq
    rw [chreg_toNat]
    simp only [channelBase]
    omega
  · exact absurd h (by simp)

@[simp] theorem ctrlAt_ctrlOffset (reg : CtrlReg) : ctrlAt (ctrlOffset reg) = some reg := by cases reg <;> rfl

theorem ctrlOffset_of_ctrlAt {a : Byte} {reg : CtrlReg} (h : ctrlAt a = some reg) : ctrlOffset reg = a := by
  unfold ctrlAt at h
  split at h
  · simp only [Option.some.injEq] at h; subst h; simp_all [ctrlOffset]
  · split at h
    · simp only [Option.some.injEq] at h; subst h; simp_all [ctrlOffset]
    · exact absurd h (by simp)

/-! ### Arithmetic -/

/-- A clamped value lies between its bounds (00_scope R14). -/
theorem clamp_bounds {v lo hi : Int} (h : lo ≤ hi) : lo ≤ clamp v lo hi ∧ clamp v lo hi ≤ hi := by
  unfold clamp; split <;> (try split) <;> omega

/-- A value between the bounds is left as it is. -/
theorem clamp_inside {v lo hi : Int} (h : lo ≤ v ∧ v ≤ hi) : clamp v lo hi = v := by
  unfold clamp; split <;> (try split) <;> omega

/-- RUN's ticks lie in -4095..4095 (42_drive R181). -/
theorem driveTicks_bounds (speed : Int) : -4095 ≤ driveTicks speed ∧ driveTicks speed ≤ 4095 :=
  clamp_bounds (by omega)

/-- A value that fits 16 bits is held exactly by an angle register (10_state R22). -/
theorem toInt_ofInt_16 {a : Int} (h : -32768 ≤ a ∧ a ≤ 32767) : (BitVec.ofInt 16 a).toInt = a := by
  rw [BitVec.toInt_ofInt]
  exact Int.bmod_eq_of_le (by omega) (by omega)

/-- One degree nearer (41_servo R155). -/
theorem sweepNext_natAbs {a target : Int} (h : a ≠ target) :
    (target - sweepNext a target).natAbs + 1 = (target - a).natAbs := by
  unfold sweepNext; split <;> omega

end Sys2Proof.Machine
end

