-- ==== Sys2Proof/Laws/Decode.lean ====
section
/-! SUPPORT. The fields of a header, and what a decoded payload and a packet taken from the stream are. -/

namespace Sys2Proof

theorem headerOp_toNat (w : Word) : (headerOp w).toNat = w.toNat / 256 := by
  have := w.isLt
  simp only [headerOp, BitVec.extractLsb'_toNat, Nat.shiftRight_eq_div_pow]
  omega

theorem headerCount_eq (w : Word) : headerCount w = w.toNat % 256 := by
  simp only [headerCount, BitVec.extractLsb'_toNat, Nat.shiftRight_eq_div_pow]
  omega

theorem header_toNat (op : Byte) (n : Nat) : (header op n).toNat = op.toNat * 256 + n % 256 := by
  have := op.isLt
  simp only [header, BitVec.toNat_ofNat]
  omega

@[simp] theorem headerOp_header (op : Byte) (n : Nat) : headerOp (header op n) = op := by
  apply BitVec.eq_of_toNat_eq
  rw [headerOp_toNat, header_toNat]
  omega

/-- A count of at most 255 is read back from its header (30_encoding R91). -/
theorem headerCount_header (op : Byte) {n : Nat} (h : n ≤ 255) : headerCount (header op n) = n := by
  rw [headerCount_eq, header_toNat]
  omega

/-- A header is its two fields (30_encoding R91). -/
theorem header_fields (w : Word) : header (headerOp w) (headerCount w) = w := by
  apply BitVec.eq_of_toNat_eq
  rw [header_toNat, headerOp_toNat, headerCount_eq]
  omega

theorem headerCount_le (w : Word) : headerCount w ≤ 255 := by
  have := (w.extractLsb' 0 8).isLt
  unfold headerCount; omega

/-- A decoded payload is a channel's five bytes or a control register's two (20_memory R62). -/
theorem decodePayload_cases {bytes : List Byte} {i : Instr} (h : decodePayload bytes = .ok i) :
    (∃ ch p q r b, bytes = [chreg ch, p, q, r, b] ∧ i = .chwrite ch p q r b) ∨
      (∃ reg v, bytes = [ctrlOffset reg, v] ∧ i = .regwrite reg v) := by
  unfold decodePayload at h
  split at h
  · split at h
    · rename_i hc
      rw [← Machine.chreg_of_channelAt hc]
      injection h with h
      exact .inl ⟨_, _, _, _, _, rfl, h.symm⟩
    · exact absurd h (by simp)
  · split at h
    · rename_i hc
      rw [← Machine.ctrlOffset_of_ctrlAt hc]
      injection h with h
      exact .inr ⟨_, _, rfl, h.symm⟩
    · exact absurd h (by simp)
  · exact absurd h (by simp)

/-- A packet taken from the stream is a header and as many words as it counts, followed in the stream by the rest
(30_encoding R91). -/
theorem takePacket_cases {ws p rest : List Word} (h : takePacket ws = some (p, rest)) :
    ∃ w0 ops, p = w0 :: ops ∧ ops.length = headerCount w0 ∧ ws = p ++ rest := by
  unfold takePacket at h
  split at h
  · exact absurd h (by simp)
  · rename_i w0 ws
    split at h
    · exact absurd h (by simp)
    · simp only [Option.some.injEq, Prod.mk.injEq] at h
      obtain ⟨rfl, rfl⟩ := h
      exact ⟨w0, _, rfl, by rw [List.length_take]; omega, by simp⟩

end Sys2Proof
end

