-- ==== Sys2Proof/Laws/State.lean ====
section
/-! SUPPORT. What each named operation leaves in each field of the state: one lemma per field per operation, so that no
later proof unfolds a record update. First the operations that are one update, true by `rfl`; then the composed
operations, whose unchanged fields follow from those. -/

namespace Sys2Proof.Machine

/-! ### One update -/

@[simp] theorem emit_angle (it : Item) (s : State) : (State.emit it s).angle = s.angle := (rfl)
@[simp] theorem emit_watch (it : Item) (s : State) : (State.emit it s).watch = s.watch := (rfl)
@[simp] theorem emit_darkRun (it : Item) (s : State) : (State.emit it s).darkRun = s.darkRun := (rfl)
@[simp] theorem emit_colorRun (it : Item) (s : State) : (State.emit it s).colorRun = s.colorRun := (rfl)
@[simp] theorem emit_lastColor (it : Item) (s : State) : (State.emit it s).lastColor = s.lastColor := (rfl)
@[simp] theorem emit_busy (it : Item) (s : State) : (State.emit it s).busy = s.busy := (rfl)
@[simp] theorem emit_seq (it : Item) (s : State) : (State.emit it s).seq = s.seq := (rfl)
@[simp] theorem emit_sleep (it : Item) (s : State) : (State.emit it s).sleep = s.sleep := (rfl)
@[simp] theorem emit_image (it : Item) (s : State) : (State.emit it s).image = s.image := (rfl)
@[simp] theorem emit_trace (it : Item) (s : State) : (State.emit it s).trace = s.trace ++ [it] := (rfl)
@[simp] theorem emit_freeDrawn (it : Item) (s : State) : (State.emit it s).freeDrawn = s.freeDrawn := (rfl)
@[simp] theorem emit_env (it : Item) (s : State) : (State.emit it s).env = s.env := (rfl)

@[simp] theorem busWrite_angle (reg : Byte) (data : List Byte) (s : State) : (State.busWrite reg data s).angle = s.angle := (rfl)
@[simp] theorem busWrite_watch (reg : Byte) (data : List Byte) (s : State) : (State.busWrite reg data s).watch = s.watch := (rfl)
@[simp] theorem busWrite_darkRun (reg : Byte) (data : List Byte) (s : State) : (State.busWrite reg data s).darkRun = s.darkRun := (rfl)
@[simp] theorem busWrite_colorRun (reg : Byte) (data : List Byte) (s : State) : (State.busWrite reg data s).colorRun = s.colorRun := (rfl)
@[simp] theorem busWrite_lastColor (reg : Byte) (data : List Byte) (s : State) : (State.busWrite reg data s).lastColor = s.lastColor := (rfl)
@[simp] theorem busWrite_busy (reg : Byte) (data : List Byte) (s : State) : (State.busWrite reg data s).busy = s.busy := (rfl)
@[simp] theorem busWrite_seq (reg : Byte) (data : List Byte) (s : State) : (State.busWrite reg data s).seq = s.seq := (rfl)
@[simp] theorem busWrite_sleep (reg : Byte) (data : List Byte) (s : State) : (State.busWrite reg data s).sleep = s.sleep := (rfl)
@[simp] theorem busWrite_image (reg : Byte) (data : List Byte) (s : State) : (State.busWrite reg data s).image = s.image.writeBytes reg.toNat (s.storedBytes data) := (rfl)
@[simp] theorem busWrite_trace (reg : Byte) (data : List Byte) (s : State) : (State.busWrite reg data s).trace = s.trace ++ [.write Config.pwmAddr (reg :: data)] := (rfl)
@[simp] theorem busWrite_freeDrawn (reg : Byte) (data : List Byte) (s : State) : (State.busWrite reg data s).freeDrawn = s.freeDrawn + data.length := (rfl)
@[simp] theorem busWrite_env (reg : Byte) (data : List Byte) (s : State) : (State.busWrite reg data s).env = s.env := (rfl)

@[simp] theorem readMode_angle (s : State) : (State.readMode s).angle = s.angle := (rfl)
@[simp] theorem readMode_watch (s : State) : (State.readMode s).watch = s.watch := (rfl)
@[simp] theorem readMode_darkRun (s : State) : (State.readMode s).darkRun = s.darkRun := (rfl)
@[simp] theorem readMode_colorRun (s : State) : (State.readMode s).colorRun = s.colorRun := (rfl)
@[simp] theorem readMode_lastColor (s : State) : (State.readMode s).lastColor = s.lastColor := (rfl)
@[simp] theorem readMode_busy (s : State) : (State.readMode s).busy = s.busy := (rfl)
@[simp] theorem readMode_seq (s : State) : (State.readMode s).seq = s.seq := (rfl)
@[simp] theorem readMode_sleep (s : State) : (State.readMode s).sleep = s.sleep := (rfl)
@[simp] theorem readMode_image (s : State) : (State.readMode s).image = s.image := (rfl)
@[simp] theorem readMode_trace (s : State) : (State.readMode s).trace = s.trace ++ [.read Config.pwmAddr 0x00#8 s.modeAnswer] := (rfl)
@[simp] theorem readMode_freeDrawn (s : State) : (State.readMode s).freeDrawn = s.freeDrawn := (rfl)
@[simp] theorem readMode_env (s : State) : (State.readMode s).env = { s.env with modeIn := s.env.modeIn.rest } := (rfl)

@[simp] theorem waitBusy_angle (ms : Nat) (s : State) : (State.waitBusy ms s).angle = s.angle := (rfl)
@[simp] theorem waitBusy_watch (ms : Nat) (s : State) : (State.waitBusy ms s).watch = s.watch := (rfl)
@[simp] theorem waitBusy_darkRun (ms : Nat) (s : State) : (State.waitBusy ms s).darkRun = s.darkRun := (rfl)
@[simp] theorem waitBusy_colorRun (ms : Nat) (s : State) : (State.waitBusy ms s).colorRun = s.colorRun := (rfl)
@[simp] theorem waitBusy_lastColor (ms : Nat) (s : State) : (State.waitBusy ms s).lastColor = s.lastColor := (rfl)
@[simp] theorem waitBusy_busy (ms : Nat) (s : State) : (State.waitBusy ms s).busy = s.busy := (rfl)
@[simp] theorem waitBusy_seq (ms : Nat) (s : State) : (State.waitBusy ms s).seq = s.seq := (rfl)
@[simp] theorem waitBusy_sleep (ms : Nat) (s : State) : (State.waitBusy ms s).sleep = s.sleep := (rfl)
@[simp] theorem waitBusy_image (ms : Nat) (s : State) : (State.waitBusy ms s).image = s.image := (rfl)
@[simp] theorem waitBusy_trace (ms : Nat) (s : State) : (State.waitBusy ms s).trace = s.trace := (rfl)
@[simp] theorem waitBusy_freeDrawn (ms : Nat) (s : State) : (State.waitBusy ms s).freeDrawn = s.freeDrawn := (rfl)
@[simp] theorem waitBusy_env (ms : Nat) (s : State) : (State.waitBusy ms s).env = { s.env with now := s.env.now + ms + s.lateness, latenessIn := s.env.latenessIn.rest } := (rfl)

@[simp] theorem pause_angle (t : Task) (ms : Nat) (s : State) : (State.pause t ms s).angle = s.angle := (rfl)
@[simp] theorem pause_watch (t : Task) (ms : Nat) (s : State) : (State.pause t ms s).watch = s.watch := (rfl)
@[simp] theorem pause_darkRun (t : Task) (ms : Nat) (s : State) : (State.pause t ms s).darkRun = s.darkRun := (rfl)
@[simp] theorem pause_colorRun (t : Task) (ms : Nat) (s : State) : (State.pause t ms s).colorRun = s.colorRun := (rfl)
@[simp] theorem pause_lastColor (t : Task) (ms : Nat) (s : State) : (State.pause t ms s).lastColor = s.lastColor := (rfl)
@[simp] theorem pause_busy (t : Task) (ms : Nat) (s : State) : (State.pause t ms s).busy = s.busy := (rfl)
@[simp] theorem pause_seq (t : Task) (ms : Nat) (s : State) : (State.pause t ms s).seq = s.seq := (rfl)
@[simp] theorem pause_sleep (t : Task) (ms : Nat) (s : State) : (State.pause t ms s).sleep = s.sleep.set t (.sleepingUntil (s.env.now + ms)) := (rfl)
@[simp] theorem pause_image (t : Task) (ms : Nat) (s : State) : (State.pause t ms s).image = s.image := (rfl)
@[simp] theorem pause_trace (t : Task) (ms : Nat) (s : State) : (State.pause t ms s).trace = s.trace ++ [.pause t ms] := (rfl)
@[simp] theorem pause_freeDrawn (t : Task) (ms : Nat) (s : State) : (State.pause t ms s).freeDrawn = s.freeDrawn := (rfl)
@[simp] theorem pause_env (t : Task) (ms : Nat) (s : State) : (State.pause t ms s).env = s.env := (rfl)

@[simp] theorem setAngleOf_angle (i : Servo) (a : Int) (s : State) : (State.setAngleOf i a s).angle = s.angle.set i (BitVec.ofInt 16 a) := (rfl)
@[simp] theorem setAngleOf_watch (i : Servo) (a : Int) (s : State) : (State.setAngleOf i a s).watch = s.watch := (rfl)
@[simp] theorem setAngleOf_darkRun (i : Servo) (a : Int) (s : State) : (State.setAngleOf i a s).darkRun = s.darkRun := (rfl)
@[simp] theorem setAngleOf_colorRun (i : Servo) (a : Int) (s : State) : (State.setAngleOf i a s).colorRun = s.colorRun := (rfl)
@[simp] theorem setAngleOf_lastColor (i : Servo) (a : Int) (s : State) : (State.setAngleOf i a s).lastColor = s.lastColor := (rfl)
@[simp] theorem setAngleOf_busy (i : Servo) (a : Int) (s : State) : (State.setAngleOf i a s).busy = s.busy := (rfl)
@[simp] theorem setAngleOf_seq (i : Servo) (a : Int) (s : State) : (State.setAngleOf i a s).seq = s.seq := (rfl)
@[simp] theorem setAngleOf_sleep (i : Servo) (a : Int) (s : State) : (State.setAngleOf i a s).sleep = s.sleep := (rfl)
@[simp] theorem setAngleOf_image (i : Servo) (a : Int) (s : State) : (State.setAngleOf i a s).image = s.image := (rfl)
@[simp] theorem setAngleOf_trace (i : Servo) (a : Int) (s : State) : (State.setAngleOf i a s).trace = s.trace := (rfl)
@[simp] theorem setAngleOf_freeDrawn (i : Servo) (a : Int) (s : State) : (State.setAngleOf i a s).freeDrawn = s.freeDrawn := (rfl)
@[simp] theorem setAngleOf_env (i : Servo) (a : Int) (s : State) : (State.setAngleOf i a s).env = s.env := (rfl)

@[simp] theorem readAmbient_angle (s : State) : (State.readAmbient s).angle = s.angle := (rfl)
@[simp] theorem readAmbient_watch (s : State) : (State.readAmbient s).watch = s.watch := (rfl)
@[simp] theorem readAmbient_darkRun (s : State) : (State.readAmbient s).darkRun = s.darkRun := (rfl)
@[simp] theorem readAmbient_colorRun (s : State) : (State.readAmbient s).colorRun = s.colorRun := (rfl)
@[simp] theorem readAmbient_lastColor (s : State) : (State.readAmbient s).lastColor = s.lastColor := (rfl)
@[simp] theorem readAmbient_busy (s : State) : (State.readAmbient s).busy = s.busy := (rfl)
@[simp] theorem readAmbient_seq (s : State) : (State.readAmbient s).seq = s.seq := (rfl)
@[simp] theorem readAmbient_sleep (s : State) : (State.readAmbient s).sleep = s.sleep := (rfl)
@[simp] theorem readAmbient_image (s : State) : (State.readAmbient s).image = s.image := (rfl)
@[simp] theorem readAmbient_trace (s : State) : (State.readAmbient s).trace = s.trace ++ [.ambient s.ambientAnswer] := (rfl)
@[simp] theorem readAmbient_freeDrawn (s : State) : (State.readAmbient s).freeDrawn = s.freeDrawn := (rfl)
@[simp] theorem readAmbient_env (s : State) : (State.readAmbient s).env = { s.env with ambientIn := s.env.ambientIn.rest } := (rfl)

@[simp] theorem readColor_angle (s : State) : (State.readColor s).angle = s.angle := (rfl)
@[simp] theorem readColor_watch (s : State) : (State.readColor s).watch = s.watch := (rfl)
@[simp] theorem readColor_darkRun (s : State) : (State.readColor s).darkRun = s.darkRun := (rfl)
@[simp] theorem readColor_colorRun (s : State) : (State.readColor s).colorRun = s.colorRun := (rfl)
@[simp] theorem readColor_lastColor (s : State) : (State.readColor s).lastColor = s.lastColor := (rfl)
@[simp] theorem readColor_busy (s : State) : (State.readColor s).busy = s.busy := (rfl)
@[simp] theorem readColor_seq (s : State) : (State.readColor s).seq = s.seq := (rfl)
@[simp] theorem readColor_sleep (s : State) : (State.readColor s).sleep = s.sleep := (rfl)
@[simp] theorem readColor_image (s : State) : (State.readColor s).image = s.image := (rfl)
@[simp] theorem readColor_trace (s : State) : (State.readColor s).trace = s.trace ++ [.color s.colorAnswer] := (rfl)
@[simp] theorem readColor_freeDrawn (s : State) : (State.readColor s).freeDrawn = s.freeDrawn := (rfl)
@[simp] theorem readColor_env (s : State) : (State.readColor s).env = { s.env with colorIn := s.env.colorIn.rest } := (rfl)

@[simp] theorem raiseEvent_angle (src : EventId) (val : Word) (s : State) : (State.raiseEvent src val s).angle = s.angle := (rfl)
@[simp] theorem raiseEvent_watch (src : EventId) (val : Word) (s : State) : (State.raiseEvent src val s).watch = s.watch := (rfl)
@[simp] theorem raiseEvent_darkRun (src : EventId) (val : Word) (s : State) : (State.raiseEvent src val s).darkRun = s.darkRun := (rfl)
@[simp] theorem raiseEvent_colorRun (src : EventId) (val : Word) (s : State) : (State.raiseEvent src val s).colorRun = s.colorRun := (rfl)
@[simp] theorem raiseEvent_lastColor (src : EventId) (val : Word) (s : State) : (State.raiseEvent src val s).lastColor = s.lastColor := (rfl)
@[simp] theorem raiseEvent_busy (src : EventId) (val : Word) (s : State) : (State.raiseEvent src val s).busy = s.busy := (rfl)
@[simp] theorem raiseEvent_seq (src : EventId) (val : Word) (s : State) : (State.raiseEvent src val s).seq = s.seq := (rfl)
@[simp] theorem raiseEvent_sleep (src : EventId) (val : Word) (s : State) : (State.raiseEvent src val s).sleep = s.sleep := (rfl)
@[simp] theorem raiseEvent_image (src : EventId) (val : Word) (s : State) : (State.raiseEvent src val s).image = s.image := (rfl)
@[simp] theorem raiseEvent_trace (src : EventId) (val : Word) (s : State) : (State.raiseEvent src val s).trace = s.trace ++ [.event src val] := (rfl)
@[simp] theorem raiseEvent_freeDrawn (src : EventId) (val : Word) (s : State) : (State.raiseEvent src val s).freeDrawn = s.freeDrawn := (rfl)
@[simp] theorem raiseEvent_env (src : EventId) (val : Word) (s : State) : (State.raiseEvent src val s).env = s.env := (rfl)

@[simp] theorem accept_angle (i : Instr) (s : State) : (State.accept i s).angle = s.angle := (rfl)
@[simp] theorem accept_watch (i : Instr) (s : State) : (State.accept i s).watch = s.watch := (rfl)
@[simp] theorem accept_darkRun (i : Instr) (s : State) : (State.accept i s).darkRun = s.darkRun := (rfl)
@[simp] theorem accept_colorRun (i : Instr) (s : State) : (State.accept i s).colorRun = s.colorRun := (rfl)
@[simp] theorem accept_lastColor (i : Instr) (s : State) : (State.accept i s).lastColor = s.lastColor := (rfl)
@[simp] theorem accept_busy (i : Instr) (s : State) : (State.accept i s).busy = true := (rfl)
@[simp] theorem accept_seq (i : Instr) (s : State) : (State.accept i s).seq = s.seq := (rfl)
@[simp] theorem accept_sleep (i : Instr) (s : State) : (State.accept i s).sleep = s.sleep := (rfl)
@[simp] theorem accept_image (i : Instr) (s : State) : (State.accept i s).image = s.image := (rfl)
@[simp] theorem accept_trace (i : Instr) (s : State) : (State.accept i s).trace = s.trace ++ [.accepted (packetOf i)] := (rfl)
@[simp] theorem accept_freeDrawn (i : Instr) (s : State) : (State.accept i s).freeDrawn = s.freeDrawn := (rfl)
@[simp] theorem accept_env (i : Instr) (s : State) : (State.accept i s).env = s.env := (rfl)

@[simp] theorem finish_angle (s : State) : (State.finish s).angle = s.angle := (rfl)
@[simp] theorem finish_watch (s : State) : (State.finish s).watch = s.watch := (rfl)
@[simp] theorem finish_darkRun (s : State) : (State.finish s).darkRun = s.darkRun := (rfl)
@[simp] theorem finish_colorRun (s : State) : (State.finish s).colorRun = s.colorRun := (rfl)
@[simp] theorem finish_lastColor (s : State) : (State.finish s).lastColor = s.lastColor := (rfl)
@[simp] theorem finish_busy (s : State) : (State.finish s).busy = false := (rfl)
@[simp] theorem finish_seq (s : State) : (State.finish s).seq = .idle := (rfl)
@[simp] theorem finish_sleep (s : State) : (State.finish s).sleep = s.sleep := (rfl)
@[simp] theorem finish_image (s : State) : (State.finish s).image = s.image := (rfl)
@[simp] theorem finish_trace (s : State) : (State.finish s).trace = s.trace ++ [.done .cmd] := (rfl)
@[simp] theorem finish_freeDrawn (s : State) : (State.finish s).freeDrawn = s.freeDrawn := (rfl)
@[simp] theorem finish_env (s : State) : (State.finish s).env = s.env := (rfl)

@[simp] theorem registerDark_angle (thr : Word) (s : State) : (State.registerDark thr s).angle = s.angle := (rfl)
@[simp] theorem registerDark_watch (thr : Word) (s : State) : (State.registerDark thr s).watch = if hasRoom s.wcount then s.watch ++ [{ thr := thr, last := false }] else s.watch := (rfl)
@[simp] theorem registerDark_darkRun (thr : Word) (s : State) : (State.registerDark thr s).darkRun = .running := (rfl)
@[simp] theorem registerDark_colorRun (thr : Word) (s : State) : (State.registerDark thr s).colorRun = s.colorRun := (rfl)
@[simp] theorem registerDark_lastColor (thr : Word) (s : State) : (State.registerDark thr s).lastColor = s.lastColor := (rfl)
@[simp] theorem registerDark_busy (thr : Word) (s : State) : (State.registerDark thr s).busy = s.busy := (rfl)
@[simp] theorem registerDark_seq (thr : Word) (s : State) : (State.registerDark thr s).seq = s.seq := (rfl)
@[simp] theorem registerDark_sleep (thr : Word) (s : State) : (State.registerDark thr s).sleep = s.sleep := (rfl)
@[simp] theorem registerDark_image (thr : Word) (s : State) : (State.registerDark thr s).image = s.image := (rfl)
@[simp] theorem registerDark_trace (thr : Word) (s : State) : (State.registerDark thr s).trace = s.trace := (rfl)
@[simp] theorem registerDark_freeDrawn (thr : Word) (s : State) : (State.registerDark thr s).freeDrawn = s.freeDrawn := (rfl)
@[simp] theorem registerDark_env (thr : Word) (s : State) : (State.registerDark thr s).env = s.env := (rfl)

@[simp] theorem wakeUp_angle (t : Task) (s : State) : (State.wakeUp t s).angle = s.angle := (rfl)
@[simp] theorem wakeUp_watch (t : Task) (s : State) : (State.wakeUp t s).watch = s.watch := (rfl)
@[simp] theorem wakeUp_darkRun (t : Task) (s : State) : (State.wakeUp t s).darkRun = s.darkRun := (rfl)
@[simp] theorem wakeUp_colorRun (t : Task) (s : State) : (State.wakeUp t s).colorRun = s.colorRun := (rfl)
@[simp] theorem wakeUp_lastColor (t : Task) (s : State) : (State.wakeUp t s).lastColor = s.lastColor := (rfl)
@[simp] theorem wakeUp_busy (t : Task) (s : State) : (State.wakeUp t s).busy = s.busy := (rfl)
@[simp] theorem wakeUp_seq (t : Task) (s : State) : (State.wakeUp t s).seq = s.seq := (rfl)
@[simp] theorem wakeUp_sleep (t : Task) (s : State) : (State.wakeUp t s).sleep = s.sleep.set t .awake := (rfl)
@[simp] theorem wakeUp_image (t : Task) (s : State) : (State.wakeUp t s).image = s.image := (rfl)
@[simp] theorem wakeUp_trace (t : Task) (s : State) : (State.wakeUp t s).trace = s.trace := (rfl)
@[simp] theorem wakeUp_freeDrawn (t : Task) (s : State) : (State.wakeUp t s).freeDrawn = s.freeDrawn := (rfl)
@[simp] theorem wakeUp_env (t : Task) (s : State) : (State.wakeUp t s).env = { s.env with now := max s.env.now (s.sleep.get t).time + s.lateness, latenessIn := s.env.latenessIn.rest } := (rfl)

/-! ### Composed operations: the fields they leave as they were -/

@[simp] theorem regWrite_angle (reg : CtrlReg) (value : Byte) (s : State) : (State.regWrite reg value s).angle = s.angle := (rfl)
@[simp] theorem regWrite_watch (reg : CtrlReg) (value : Byte) (s : State) : (State.regWrite reg value s).watch = s.watch := (rfl)
@[simp] theorem regWrite_darkRun (reg : CtrlReg) (value : Byte) (s : State) : (State.regWrite reg value s).darkRun = s.darkRun := (rfl)
@[simp] theorem regWrite_colorRun (reg : CtrlReg) (value : Byte) (s : State) : (State.regWrite reg value s).colorRun = s.colorRun := (rfl)
@[simp] theorem regWrite_lastColor (reg : CtrlReg) (value : Byte) (s : State) : (State.regWrite reg value s).lastColor = s.lastColor := (rfl)
@[simp] theorem regWrite_busy (reg : CtrlReg) (value : Byte) (s : State) : (State.regWrite reg value s).busy = s.busy := (rfl)
@[simp] theorem regWrite_seq (reg : CtrlReg) (value : Byte) (s : State) : (State.regWrite reg value s).seq = s.seq := (rfl)
@[simp] theorem regWrite_sleep (reg : CtrlReg) (value : Byte) (s : State) : (State.regWrite reg value s).sleep = s.sleep := (rfl)
@[simp] theorem regWrite_env (reg : CtrlReg) (value : Byte) (s : State) : (State.regWrite reg value s).env = s.env := (rfl)

@[simp] theorem channelWrite_angle (ch : Channel) (on off : Int) (s : State) : (State.channelWrite ch on off s).angle = s.angle := (rfl)
@[simp] theorem channelWrite_watch (ch : Channel) (on off : Int) (s : State) : (State.channelWrite ch on off s).watch = s.watch := (rfl)
@[simp] theorem channelWrite_darkRun (ch : Channel) (on off : Int) (s : State) : (State.channelWrite ch on off s).darkRun = s.darkRun := (rfl)
@[simp] theorem channelWrite_colorRun (ch : Channel) (on off : Int) (s : State) : (State.channelWrite ch on off s).colorRun = s.colorRun := (rfl)
@[simp] theorem channelWrite_lastColor (ch : Channel) (on off : Int) (s : State) : (State.channelWrite ch on off s).lastColor = s.lastColor := (rfl)
@[simp] theorem channelWrite_busy (ch : Channel) (on off : Int) (s : State) : (State.channelWrite ch on off s).busy = s.busy := (rfl)
@[simp] theorem channelWrite_seq (ch : Channel) (on off : Int) (s : State) : (State.channelWrite ch on off s).seq = s.seq := (rfl)
@[simp] theorem channelWrite_sleep (ch : Channel) (on off : Int) (s : State) : (State.channelWrite ch on off s).sleep = s.sleep := (rfl)
@[simp] theorem channelWrite_env (ch : Channel) (on off : Int) (s : State) : (State.channelWrite ch on off s).env = s.env := (rfl)

@[simp] theorem setChannel_angle (ch on off : Int) (s : State) : (State.setChannel ch on off s).angle = s.angle := by unfold State.setChannel; split <;> simp
@[simp] theorem setChannel_watch (ch on off : Int) (s : State) : (State.setChannel ch on off s).watch = s.watch := by unfold State.setChannel; split <;> simp
@[simp] theorem setChannel_darkRun (ch on off : Int) (s : State) : (State.setChannel ch on off s).darkRun = s.darkRun := by unfold State.setChannel; split <;> simp
@[simp] theorem setChannel_colorRun (ch on off : Int) (s : State) : (State.setChannel ch on off s).colorRun = s.colorRun := by unfold State.setChannel; split <;> simp
@[simp] theorem setChannel_lastColor (ch on off : Int) (s : State) : (State.setChannel ch on off s).lastColor = s.lastColor := by unfold State.setChannel; split <;> simp
@[simp] theorem setChannel_busy (ch on off : Int) (s : State) : (State.setChannel ch on off s).busy = s.busy := by unfold State.setChannel; split <;> simp
@[simp] theorem setChannel_seq (ch on off : Int) (s : State) : (State.setChannel ch on off s).seq = s.seq := by unfold State.setChannel; split <;> simp
@[simp] theorem setChannel_sleep (ch on off : Int) (s : State) : (State.setChannel ch on off s).sleep = s.sleep := by unfold State.setChannel; split <;> simp
@[simp] theorem setChannel_env (ch on off : Int) (s : State) : (State.setChannel ch on off s).env = s.env := by unfold State.setChannel; split <;> simp

@[simp] theorem driveServo_angle (n deg : Int) (s : State) : (State.driveServo n deg s).angle = s.angle := by unfold State.driveServo; split <;> simp
@[simp] theorem driveServo_watch (n deg : Int) (s : State) : (State.driveServo n deg s).watch = s.watch := by unfold State.driveServo; split <;> simp
@[simp] theorem driveServo_darkRun (n deg : Int) (s : State) : (State.driveServo n deg s).darkRun = s.darkRun := by unfold State.driveServo; split <;> simp
@[simp] theorem driveServo_colorRun (n deg : Int) (s : State) : (State.driveServo n deg s).colorRun = s.colorRun := by unfold State.driveServo; split <;> simp
@[simp] theorem driveServo_lastColor (n deg : Int) (s : State) : (State.driveServo n deg s).lastColor = s.lastColor := by unfold State.driveServo; split <;> simp
@[simp] theorem driveServo_busy (n deg : Int) (s : State) : (State.driveServo n deg s).busy = s.busy := by unfold State.driveServo; split <;> simp
@[simp] theorem driveServo_seq (n deg : Int) (s : State) : (State.driveServo n deg s).seq = s.seq := by unfold State.driveServo; split <;> simp
@[simp] theorem driveServo_sleep (n deg : Int) (s : State) : (State.driveServo n deg s).sleep = s.sleep := by unfold State.driveServo; split <;> simp
@[simp] theorem driveServo_env (n deg : Int) (s : State) : (State.driveServo n deg s).env = s.env := by unfold State.driveServo; split <;> simp

@[simp] theorem moveServo_watch (i : Servo) (a : Int) (s : State) : (State.moveServo i a s).watch = s.watch := by simp [State.moveServo]
@[simp] theorem moveServo_darkRun (i : Servo) (a : Int) (s : State) : (State.moveServo i a s).darkRun = s.darkRun := by simp [State.moveServo]
@[simp] theorem moveServo_colorRun (i : Servo) (a : Int) (s : State) : (State.moveServo i a s).colorRun = s.colorRun := by simp [State.moveServo]
@[simp] theorem moveServo_lastColor (i : Servo) (a : Int) (s : State) : (State.moveServo i a s).lastColor = s.lastColor := by simp [State.moveServo]
@[simp] theorem moveServo_busy (i : Servo) (a : Int) (s : State) : (State.moveServo i a s).busy = s.busy := by simp [State.moveServo]
@[simp] theorem moveServo_seq (i : Servo) (a : Int) (s : State) : (State.moveServo i a s).seq = s.seq := by simp [State.moveServo]
@[simp] theorem moveServo_sleep (i : Servo) (a : Int) (s : State) : (State.moveServo i a s).sleep = s.sleep := by simp [State.moveServo]
@[simp] theorem moveServo_env (i : Servo) (a : Int) (s : State) : (State.moveServo i a s).env = s.env := by simp [State.moveServo]

@[simp] theorem driveMotor_angle (m speed : Int) (s : State) : (State.driveMotor m speed s).angle = s.angle := by unfold State.driveMotor; split <;> (try split) <;> simp
@[simp] theorem driveMotor_watch (m speed : Int) (s : State) : (State.driveMotor m speed s).watch = s.watch := by unfold State.driveMotor; split <;> (try split) <;> simp
@[simp] theorem driveMotor_darkRun (m speed : Int) (s : State) : (State.driveMotor m speed s).darkRun = s.darkRun := by unfold State.driveMotor; split <;> (try split) <;> simp
@[simp] theorem driveMotor_colorRun (m speed : Int) (s : State) : (State.driveMotor m speed s).colorRun = s.colorRun := by unfold State.driveMotor; split <;> (try split) <;> simp
@[simp] theorem driveMotor_lastColor (m speed : Int) (s : State) : (State.driveMotor m speed s).lastColor = s.lastColor := by unfold State.driveMotor; split <;> (try split) <;> simp
@[simp] theorem driveMotor_busy (m speed : Int) (s : State) : (State.driveMotor m speed s).busy = s.busy := by unfold State.driveMotor; split <;> (try split) <;> simp
@[simp] theorem driveMotor_seq (m speed : Int) (s : State) : (State.driveMotor m speed s).seq = s.seq := by unfold State.driveMotor; split <;> (try split) <;> simp
@[simp] theorem driveMotor_sleep (m speed : Int) (s : State) : (State.driveMotor m speed s).sleep = s.sleep := by unfold State.driveMotor; split <;> (try split) <;> simp
@[simp] theorem driveMotor_env (m speed : Int) (s : State) : (State.driveMotor m speed s).env = s.env := by unfold State.driveMotor; split <;> (try split) <;> simp

@[simp] theorem lineFollowStep_angle (maxSpeed left right : Int) (s : State) : (State.lineFollowStep maxSpeed left right s).angle = s.angle := by simp [State.lineFollowStep]
@[simp] theorem lineFollowStep_watch (maxSpeed left right : Int) (s : State) : (State.lineFollowStep maxSpeed left right s).watch = s.watch := by simp [State.lineFollowStep]
@[simp] theorem lineFollowStep_darkRun (maxSpeed left right : Int) (s : State) : (State.lineFollowStep maxSpeed left right s).darkRun = s.darkRun := by simp [State.lineFollowStep]
@[simp] theorem lineFollowStep_colorRun (maxSpeed left right : Int) (s : State) : (State.lineFollowStep maxSpeed left right s).colorRun = s.colorRun := by simp [State.lineFollowStep]
@[simp] theorem lineFollowStep_lastColor (maxSpeed left right : Int) (s : State) : (State.lineFollowStep maxSpeed left right s).lastColor = s.lastColor := by simp [State.lineFollowStep]
@[simp] theorem lineFollowStep_busy (maxSpeed left right : Int) (s : State) : (State.lineFollowStep maxSpeed left right s).busy = s.busy := by simp [State.lineFollowStep]
@[simp] theorem lineFollowStep_seq (maxSpeed left right : Int) (s : State) : (State.lineFollowStep maxSpeed left right s).seq = s.seq := by simp [State.lineFollowStep]
@[simp] theorem lineFollowStep_sleep (maxSpeed left right : Int) (s : State) : (State.lineFollowStep maxSpeed left right s).sleep = s.sleep := by simp [State.lineFollowStep]
@[simp] theorem lineFollowStep_env (maxSpeed left right : Int) (s : State) : (State.lineFollowStep maxSpeed left right s).env = s.env := by simp [State.lineFollowStep]

/-- A fold of steps that each keep a reading of the state keeps it. -/
theorem foldl_keeps {α β : Type} (read : State → β) (f : State → α → State)
    (h : ∀ s a, read (f s a) = read s) (l : List α) (s : State) : read (l.foldl f s) = read s := by
  induction l generalizing s with
  | nil => rfl
  | cons a l ih => rw [List.foldl_cons, ih, h]

@[simp] theorem zeroChannels_angle (s : State) : (State.zeroChannels s).angle = s.angle :=
  foldl_keeps State.angle _ (fun _ _ => by simp) _ s
@[simp] theorem zeroChannels_watch (s : State) : (State.zeroChannels s).watch = s.watch :=
  foldl_keeps State.watch _ (fun _ _ => by simp) _ s
@[simp] theorem zeroChannels_darkRun (s : State) : (State.zeroChannels s).darkRun = s.darkRun :=
  foldl_keeps State.darkRun _ (fun _ _ => by simp) _ s
@[simp] theorem zeroChannels_colorRun (s : State) : (State.zeroChannels s).colorRun = s.colorRun :=
  foldl_keeps State.colorRun _ (fun _ _ => by simp) _ s
@[simp] theorem zeroChannels_lastColor (s : State) : (State.zeroChannels s).lastColor = s.lastColor :=
  foldl_keeps State.lastColor _ (fun _ _ => by simp) _ s
@[simp] theorem zeroChannels_busy (s : State) : (State.zeroChannels s).busy = s.busy :=
  foldl_keeps State.busy _ (fun _ _ => by simp) _ s
@[simp] theorem zeroChannels_seq (s : State) : (State.zeroChannels s).seq = s.seq :=
  foldl_keeps State.seq _ (fun _ _ => by simp) _ s
@[simp] theorem zeroChannels_sleep (s : State) : (State.zeroChannels s).sleep = s.sleep :=
  foldl_keeps State.sleep _ (fun _ _ => by simp) _ s
@[simp] theorem zeroChannels_env (s : State) : (State.zeroChannels s).env = s.env :=
  foldl_keeps State.env _ (fun _ _ => by simp) _ s

@[simp] theorem reapplyAngles_angle (s : State) : (State.reapplyAngles s).angle = s.angle :=
  foldl_keeps State.angle _ (fun _ _ => by simp) _ s
@[simp] theorem reapplyAngles_watch (s : State) : (State.reapplyAngles s).watch = s.watch :=
  foldl_keeps State.watch _ (fun _ _ => by simp) _ s
@[simp] theorem reapplyAngles_darkRun (s : State) : (State.reapplyAngles s).darkRun = s.darkRun :=
  foldl_keeps State.darkRun _ (fun _ _ => by simp) _ s
@[simp] theorem reapplyAngles_colorRun (s : State) : (State.reapplyAngles s).colorRun = s.colorRun :=
  foldl_keeps State.colorRun _ (fun _ _ => by simp) _ s
@[simp] theorem reapplyAngles_lastColor (s : State) : (State.reapplyAngles s).lastColor = s.lastColor :=
  foldl_keeps State.lastColor _ (fun _ _ => by simp) _ s
@[simp] theorem reapplyAngles_busy (s : State) : (State.reapplyAngles s).busy = s.busy :=
  foldl_keeps State.busy _ (fun _ _ => by simp) _ s
@[simp] theorem reapplyAngles_seq (s : State) : (State.reapplyAngles s).seq = s.seq :=
  foldl_keeps State.seq _ (fun _ _ => by simp) _ s
@[simp] theorem reapplyAngles_sleep (s : State) : (State.reapplyAngles s).sleep = s.sleep :=
  foldl_keeps State.sleep _ (fun _ _ => by simp) _ s
@[simp] theorem reapplyAngles_env (s : State) : (State.reapplyAngles s).env = s.env :=
  foldl_keeps State.env _ (fun _ _ => by simp) _ s

@[simp] theorem snapLanes_watch (lanes : List Lane) (s : State) : (State.snapLanes lanes s).watch = s.watch :=
  foldl_keeps State.watch _ (fun _ _ => by simp) _ s
@[simp] theorem snapLanes_darkRun (lanes : List Lane) (s : State) : (State.snapLanes lanes s).darkRun = s.darkRun :=
  foldl_keeps State.darkRun _ (fun _ _ => by simp) _ s
@[simp] theorem snapLanes_colorRun (lanes : List Lane) (s : State) : (State.snapLanes lanes s).colorRun = s.colorRun :=
  foldl_keeps State.colorRun _ (fun _ _ => by simp) _ s
@[simp] theorem snapLanes_lastColor (lanes : List Lane) (s : State) : (State.snapLanes lanes s).lastColor = s.lastColor :=
  foldl_keeps State.lastColor _ (fun _ _ => by simp) _ s
@[simp] theorem snapLanes_busy (lanes : List Lane) (s : State) : (State.snapLanes lanes s).busy = s.busy :=
  foldl_keeps State.busy _ (fun _ _ => by simp) _ s
@[simp] theorem snapLanes_seq (lanes : List Lane) (s : State) : (State.snapLanes lanes s).seq = s.seq :=
  foldl_keeps State.seq _ (fun _ _ => by simp) _ s
@[simp] theorem snapLanes_sleep (lanes : List Lane) (s : State) : (State.snapLanes lanes s).sleep = s.sleep :=
  foldl_keeps State.sleep _ (fun _ _ => by simp) _ s
@[simp] theorem snapLanes_env (lanes : List Lane) (s : State) : (State.snapLanes lanes s).env = s.env :=
  foldl_keeps State.env _ (fun _ _ => by simp) _ s

@[simp] theorem frameLane_watch (k steps : Nat) (l : Lane) (s : State) : (State.frameLane k steps l s).watch = s.watch := by unfold State.frameLane; split <;> simp
@[simp] theorem frameLane_darkRun (k steps : Nat) (l : Lane) (s : State) : (State.frameLane k steps l s).darkRun = s.darkRun := by unfold State.frameLane; split <;> simp
@[simp] theorem frameLane_colorRun (k steps : Nat) (l : Lane) (s : State) : (State.frameLane k steps l s).colorRun = s.colorRun := by unfold State.frameLane; split <;> simp
@[simp] theorem frameLane_lastColor (k steps : Nat) (l : Lane) (s : State) : (State.frameLane k steps l s).lastColor = s.lastColor := by unfold State.frameLane; split <;> simp
@[simp] theorem frameLane_busy (k steps : Nat) (l : Lane) (s : State) : (State.frameLane k steps l s).busy = s.busy := by unfold State.frameLane; split <;> simp
@[simp] theorem frameLane_seq (k steps : Nat) (l : Lane) (s : State) : (State.frameLane k steps l s).seq = s.seq := by unfold State.frameLane; split <;> simp
@[simp] theorem frameLane_sleep (k steps : Nat) (l : Lane) (s : State) : (State.frameLane k steps l s).sleep = s.sleep := by unfold State.frameLane; split <;> simp
@[simp] theorem frameLane_env (k steps : Nat) (l : Lane) (s : State) : (State.frameLane k steps l s).env = s.env := by unfold State.frameLane; split <;> simp

@[simp] theorem frameLanes_watch (k steps : Nat) (lanes : List Lane) (s : State) : (State.frameLanes k steps lanes s).watch = s.watch :=
  foldl_keeps State.watch _ (fun _ _ => by simp) _ s
@[simp] theorem frameLanes_darkRun (k steps : Nat) (lanes : List Lane) (s : State) : (State.frameLanes k steps lanes s).darkRun = s.darkRun :=
  foldl_keeps State.darkRun _ (fun _ _ => by simp) _ s
@[simp] theorem frameLanes_colorRun (k steps : Nat) (lanes : List Lane) (s : State) : (State.frameLanes k steps lanes s).colorRun = s.colorRun :=
  foldl_keeps State.colorRun _ (fun _ _ => by simp) _ s
@[simp] theorem frameLanes_lastColor (k steps : Nat) (lanes : List Lane) (s : State) : (State.frameLanes k steps lanes s).lastColor = s.lastColor :=
  foldl_keeps State.lastColor _ (fun _ _ => by simp) _ s
@[simp] theorem frameLanes_busy (k steps : Nat) (lanes : List Lane) (s : State) : (State.frameLanes k steps lanes s).busy = s.busy :=
  foldl_keeps State.busy _ (fun _ _ => by simp) _ s
@[simp] theorem frameLanes_seq (k steps : Nat) (lanes : List Lane) (s : State) : (State.frameLanes k steps lanes s).seq = s.seq :=
  foldl_keeps State.seq _ (fun _ _ => by simp) _ s
@[simp] theorem frameLanes_sleep (k steps : Nat) (lanes : List Lane) (s : State) : (State.frameLanes k steps lanes s).sleep = s.sleep :=
  foldl_keeps State.sleep _ (fun _ _ => by simp) _ s
@[simp] theorem frameLanes_env (k steps : Nat) (lanes : List Lane) (s : State) : (State.frameLanes k steps lanes s).env = s.env :=
  foldl_keeps State.env _ (fun _ _ => by simp) _ s

@[simp] theorem initWith_angle (old : Byte) (s : State) : (State.initWith old s).angle = s.angle := by simp [State.initWith]
@[simp] theorem initWith_watch (old : Byte) (s : State) : (State.initWith old s).watch = s.watch := by simp [State.initWith]
@[simp] theorem initWith_darkRun (old : Byte) (s : State) : (State.initWith old s).darkRun = s.darkRun := by simp [State.initWith]
@[simp] theorem initWith_colorRun (old : Byte) (s : State) : (State.initWith old s).colorRun = s.colorRun := by simp [State.initWith]
@[simp] theorem initWith_lastColor (old : Byte) (s : State) : (State.initWith old s).lastColor = s.lastColor := by simp [State.initWith]
@[simp] theorem initWith_busy (old : Byte) (s : State) : (State.initWith old s).busy = s.busy := by simp [State.initWith]
@[simp] theorem initWith_seq (old : Byte) (s : State) : (State.initWith old s).seq = s.seq := by simp [State.initWith]
@[simp] theorem initWith_sleep (old : Byte) (s : State) : (State.initWith old s).sleep = s.sleep := by simp [State.initWith]

@[simp] theorem initWith_env (old : Byte) (s : State) :
    (State.initWith old s).env =
      { s.env with now := s.env.now + oscWaitMs + s.lateness, latenessIn := s.env.latenessIn.rest } := by
  simp [State.initWith, State.lateness]

@[simp] theorem initialize_angle (s : State) : s.initialize.angle = s.angle := (initWith_angle _ _).trans (readMode_angle s)
@[simp] theorem initialize_watch (s : State) : s.initialize.watch = s.watch := (initWith_watch _ _).trans (readMode_watch s)
@[simp] theorem initialize_darkRun (s : State) : s.initialize.darkRun = s.darkRun := (initWith_darkRun _ _).trans (readMode_darkRun s)
@[simp] theorem initialize_colorRun (s : State) : s.initialize.colorRun = s.colorRun := (initWith_colorRun _ _).trans (readMode_colorRun s)
@[simp] theorem initialize_lastColor (s : State) : s.initialize.lastColor = s.lastColor := (initWith_lastColor _ _).trans (readMode_lastColor s)
@[simp] theorem initialize_busy (s : State) : s.initialize.busy = s.busy := (initWith_busy _ _).trans (readMode_busy s)
@[simp] theorem initialize_seq (s : State) : s.initialize.seq = s.seq := (initWith_seq _ _).trans (readMode_seq s)
@[simp] theorem initialize_sleep (s : State) : s.initialize.sleep = s.sleep := (initWith_sleep _ _).trans (readMode_sleep s)

@[simp] theorem initialize_env (s : State) :
    s.initialize.env = { s.env with
      now := s.env.now + oscWaitMs + s.lateness,
      modeIn := s.env.modeIn.rest,
      latenessIn := s.env.latenessIn.rest } :=
  initWith_env _ _

end Sys2Proof.Machine
end

