-- ==== Sys2Proof/Laws/Ops.lean ====
section
/-! SUPPORT. What each shared operation does, once: its items on the trace, its bytes in the image, its register. -/

namespace Sys2Proof.Machine

/-! ### Bus writes -/

@[simp] theorem bytesLeft_length (asSent : Bool) (drawn : Nat) (data : List Byte) :
    (bytesLeft asSent drawn data).length = data.length := by
  induction data generalizing drawn with
  | nil => rfl
  | cons b data ih => simp [bytesLeft, ih]

theorem bytesLeft_sent (drawn : Nat) (data : List Byte) : bytesLeft true drawn data = data := by
  induction data generalizing drawn with
  | nil => rfl
  | cons b data ih => simp [bytesLeft, ih]

/-- A bus write leaves as many bytes as it sends, specified or not (20_memory R66, R67). -/
@[simp] theorem storedBytes_length (data : List Byte) (s : State) : (s.storedBytes data).length = data.length :=
  bytesLeft_length ..

/-- With auto-increment on, and for a single byte, the bytes left are those sent (20_memory R66). -/
theorem storedBytes_sent {data : List Byte} {s : State} (h : data.length ≤ 1 ∨ autoIncrement s.image = true) :
    s.storedBytes data = data := by
  have e : s.storesAsSent data = true := by simpa [State.storesAsSent] using h
  rw [State.storedBytes, e, bytesLeft_sent]

/-- Every answer of `ColorRead` is a member of `COLORS` (43_watchers R204). -/
theorem colorAnswer_mem (s : State) : s.colorAnswer ∈ Config.colors := by
  unfold State.colorAnswer Config.color
  rw [List.getD_eq_getElem?_getD]
  cases h : Config.colors[s.env.colorIn.value Config.colorChoice]? with
  | none => exact List.mem_cons_self ..
  | some c => exact List.mem_of_getElem? h

@[simp] theorem regWrite_trace (reg : CtrlReg) (v : Byte) (s : State) :
    (s.regWrite reg v).trace = s.trace ++ [ctrlItem reg v] := (rfl)

@[simp] theorem regWrite_image (reg : CtrlReg) (v : Byte) (s : State) :
    (s.regWrite reg v).image = s.image.write (ctrlOffset reg).toNat v := by
  rw [State.regWrite, busWrite_image, storedBytes_sent (.inl (by simp))]
  rfl

@[simp] theorem channelWrite_trace (ch : Channel) (on off : Int) (s : State) :
    (s.channelWrite ch on off).trace = s.trace ++ [channelItem ch on off] := (rfl)

/-- A channel write's four bytes are at its channel's block. -/
theorem channelWrite_image (ch : Channel) (on off : Int) (s : State) :
    (s.channelWrite ch on off).image =
      s.image.writeBytes (channelBase ch) (s.storedBytes [lo8 on, hi8 on, lo8 off, hi8 off]) := by
  rw [State.channelWrite, busWrite_image, chreg_toNat]

/-- A channel write leaves every byte outside its channel's block (20_memory R66, R67). -/
theorem channelWrite_read_outside (ch : Channel) (on off : Int) (s : State) {a : Nat} (h : ¬ InChannel ch a) :
    (s.channelWrite ch on off).image.read a = s.image.read a := by
  rw [channelWrite_image, Memory.read_writeBytes, if_neg]
  intro hc
  exact h ⟨hc.1, by simpa using hc.2⟩

/-- With auto-increment on, a channel write leaves its two counts in its channel's block (20_memory R66). -/
theorem channelWrite_holds (ch : Channel) (on off : Int) {s : State} (h : autoIncrement s.image = true) :
    ChannelHolds (s.channelWrite ch on off).image ch on off := by
  constructor <;> rw [channelWrite_image, storedBytes_sent (.inr h), Memory.read_writeBytes] <;> simp

/-- SETCH on integers: the channel's write, or nothing (40_pwm_driver R138, R139). -/
theorem setChannel_channel (c : Channel) (on off : Int) (s : State) :
    s.setChannel (c.val : Int) on off = s.channelWrite c on off := by
  simp [State.setChannel, channelOperand_val]

theorem setChannel_outside {ch : Int} (h : ch < 0 ∨ ch > 15) (on off : Int) (s : State) :
    s.setChannel ch on off = s := by
  simp [State.setChannel, channelOperand_none h]

theorem setChannel_trace (ch on off : Int) (s : State) :
    (s.setChannel ch on off).trace = s.trace ++ channelItems ch on off := by
  unfold State.setChannel channelItems
  cases channelOperand ch <;> simp

/-! ### Servos -/

/-- SETANGLE on a servo's own number is the write of its channel (41_servo R150). -/
theorem driveServo_number (i : Servo) (deg : Int) (s : State) :
    s.driveServo (servoNumber i) deg = s.channelWrite (servoChannel i) 0 (ticks deg) := by
  simp only [State.driveServo, servoOperand_number, servoNumber_add_seven, setChannel_channel]

theorem driveServo_outside {n : Int} (h : n < 1 ∨ n > 8) (deg : Int) (s : State) : s.driveServo n deg = s := by
  simp [State.driveServo, servoOperand_none h]

/-- SETANGLE on integers drives the servo it names, or nothing (41_servo R150, R154). -/
theorem driveServo_cases (n deg : Int) (s : State) :
    (∃ i, n = servoNumber i ∧ s.driveServo n deg = s.channelWrite (servoChannel i) 0 (ticks deg)) ∨
      ((n < 1 ∨ n > 8) ∧ s.driveServo n deg = s) := by
  cases h : servoOperand n with
  | some i =>
    obtain rfl := servoOperand_eq_some h
    exact .inl ⟨i, rfl, driveServo_number i deg s⟩
  | none =>
    have hn : n < 1 ∨ n > 8 := by
      unfold servoOperand at h
      split at h
      · exact absurd h (by simp)
      · omega
    exact .inr ⟨hn, driveServo_outside hn deg s⟩

@[simp] theorem moveServo_trace (i : Servo) (a : Int) (s : State) :
    (s.moveServo i a).trace = s.trace ++ [servoItem i a] := by
  simp [State.moveServo, driveServo_number, servoItem]

theorem moveServo_image (i : Servo) (a : Int) (s : State) :
    (s.moveServo i a).image = (s.channelWrite (servoChannel i) 0 (ticks a)).image := by
  simp [State.moveServo, driveServo_number]

@[simp] theorem moveServo_angle (i : Servo) (a : Int) (s : State) :
    (s.moveServo i a).angle = s.angle.set i (BitVec.ofInt 16 a) := by
  simp [State.moveServo]

/-- A register reads as written, and the other registers as before (10_state R22). -/
theorem angleOf_moveServo (i j : Servo) {a : Int} (h : -32768 ≤ a ∧ a ≤ 32767) (s : State) :
    (s.moveServo i a).angleOf j = if j = i then a else s.angleOf j := by
  unfold State.angleOf
  rw [moveServo_angle]
  by_cases hj : j = i
  · subst hj; simp [toInt_ofInt_16 h]
  · have : i.val ≠ j.val := fun e => hj (Fin.ext e.symm)
    simp [hj, this]

/-- The angle of a servo that is not moved reads as before, whatever the angle written. -/
theorem angleOf_moveServo_other {i j : Servo} (h : j ≠ i) (a : Int) (s : State) :
    (s.moveServo i a).angleOf j = s.angleOf j := by
  have : i.val ≠ j.val := fun e => h (Fin.ext e.symm)
  simp [State.angleOf, this]

/-- An angle register reads a value of 16 bits (10_state R22). -/
theorem angleOf_bounds (i : Servo) (s : State) : -32768 ≤ s.angleOf i ∧ s.angleOf i ≤ 32767 := by
  have := BitVec.toInt_lt (x := s.angle[i])
  have := BitVec.le_toInt (x := s.angle[i])
  unfold State.angleOf
  simp at *
  omega

/-- `angleOf` reads the angle registers only. -/
theorem angleOf_congr {s t : State} (h : t.angle = s.angle) (i : Servo) : t.angleOf i = s.angleOf i := by
  simp [State.angleOf, h]

/-! ### Motors -/

/-- RUN writes nothing for a motor outside 1..4 (42_drive R182). -/
theorem driveMotor_outside {m : Int} (h : m < 1 ∨ m > 4) (speed : Int) (s : State) : s.driveMotor m speed = s := by
  rw [State.driveMotor, if_neg (by omega)]

theorem driveMotor_forward {m speed : Int} (h : 1 ≤ m ∧ m ≤ 4) (hv : driveTicks speed ≥ 0) (s : State) :
    s.driveMotor m speed =
      (s.setChannel (reverseChannel m) 0 0).setChannel (forwardChannel m) 0 (driveTicks speed) := by
  rw [State.driveMotor, if_pos h, if_pos hv]

theorem driveMotor_reverse {m speed : Int} (h : 1 ≤ m ∧ m ≤ 4) (hv : driveTicks speed < 0) (s : State) :
    s.driveMotor m speed =
      (s.setChannel (forwardChannel m) 0 0).setChannel (reverseChannel m) 0 (-driveTicks speed) := by
  rw [State.driveMotor, if_pos h, if_neg (by omega)]

/-! ### What a reading of the image keeps under channel writes -/

/-- A property of the image that every channel write keeps. -/
def KeptByChannelWrites (P : Memory → Prop) : Prop :=
  ∀ (m : Memory) (ch : Channel) (bs : List Byte), bs.length = 4 → P m → P (m.writeBytes (channelBase ch) bs)

theorem wf_kept : KeptByChannelWrites Memory.wf := fun _ _ bs _ h => Memory.wf_writeBytes bs h _

theorem complete_kept : KeptByChannelWrites Memory.complete := fun _ _ bs _ h => Memory.complete_writeBytes bs h _

theorem described_kept : KeptByChannelWrites Memory.described := fun _ ch bs hb h =>
  Memory.described_writeBytes bs h _ fun a h1 h2 => by
    rw [hb] at h2
    have hc := ch.isLt
    simp only [channelBase] at h1 h2
    simp only [describedOffset, Bool.or_eq_true, Bool.and_eq_true, decide_eq_true_eq, beq_iff_eq]
    omega

/-- A byte outside every channel's block keeps its value. -/
theorem read_kept {a : Nat} (ha : ∀ ch, ¬ InChannel ch a) (v : Option Byte) :
    KeptByChannelWrites fun m => m.read a = v := fun m ch bs hb h => by
  show Memory.read (Memory.writeBytes m _ bs) a = v
  rw [Memory.read_writeBytes, if_neg]
  · exact h
  · intro hc; exact ha ch ⟨hc.1, by rw [hb] at hc; exact hc.2⟩

theorem not_inChannel_of_lt {a : Nat} (h : a < 6) (ch : Channel) : ¬ InChannel ch a := fun hc => by
  have := hc.1; simp only [channelBase] at this; omega

theorem not_inChannel_of_gt {a : Nat} (h : 0x45 < a) (ch : Channel) : ¬ InChannel ch a := fun hc => by
  have := hc.2; have := ch.isLt; simp only [channelBase] at *; omega

/-- Auto-increment stays as it is under channel writes: they leave `MODE` (40_pwm_driver R134). -/
theorem autoIncrement_kept (b : Bool) : KeptByChannelWrites fun m => autoIncrement m = b := fun m ch bs hb h => by
  have := read_kept (not_inChannel_of_lt (a := 0) (by omega)) (m.read 0x00) m ch bs hb rfl
  simp only [autoIncrement] at h ⊢
  rw [this]
  exact h

/-- A fold of steps that each keep a property of the image keeps it. -/
theorem foldl_image_keeps {P : Memory → Prop} {α : Type} (f : State → α → State) (hf : ∀ s a, P s.image → P (f s a).image) (l : List α)
    {s : State} (h : P s.image) : P (l.foldl f s).image := by
  induction l generalizing s with
  | nil => exact h
  | cons a l ih => exact ih (hf s a h)

variable {P : Memory → Prop} (hP : KeptByChannelWrites P)
include hP

theorem channelWrite_keeps (ch : Channel) (on off : Int) {s : State} (h : P s.image) :
    P (s.channelWrite ch on off).image := by
  rw [channelWrite_image]; exact hP _ ch _ (by simp) h

theorem setChannel_keeps (ch on off : Int) {s : State} (h : P s.image) : P (s.setChannel ch on off).image := by
  unfold State.setChannel
  split
  · exact channelWrite_keeps hP _ _ _ h
  · exact h

theorem driveServo_keeps (n deg : Int) {s : State} (h : P s.image) : P (s.driveServo n deg).image := by
  unfold State.driveServo
  split
  · exact setChannel_keeps hP _ _ _ h
  · exact h

theorem moveServo_keeps (i : Servo) (a : Int) {s : State} (h : P s.image) : P (s.moveServo i a).image := by
  rw [moveServo_image]; exact channelWrite_keeps hP _ _ _ h

theorem driveMotor_keeps (m speed : Int) {s : State} (h : P s.image) : P (s.driveMotor m speed).image := by
  unfold State.driveMotor
  split
  · split <;> exact setChannel_keeps hP _ _ _ (setChannel_keeps hP _ _ _ h)
  · exact h

theorem zeroChannels_keeps {s : State} (h : P s.image) : P s.zeroChannels.image :=
  foldl_image_keeps _ (fun _ _ => setChannel_keeps hP _ _ _) _ h

theorem reapplyAngles_keeps {s : State} (h : P s.image) : P s.reapplyAngles.image :=
  foldl_image_keeps _ (fun _ _ => driveServo_keeps hP _ _) _ h

theorem snapLanes_keeps (lanes : List Lane) {s : State} (h : P s.image) : P (s.snapLanes lanes).image :=
  foldl_image_keeps _ (fun _ _ => moveServo_keeps hP _ _) _ h

theorem frameLane_keeps (k steps : Nat) (l : Lane) {s : State} (h : P s.image) : P (s.frameLane k steps l).image := by
  unfold State.frameLane
  split
  · exact h
  · exact moveServo_keeps hP _ _ h

theorem frameLanes_keeps (k steps : Nat) (lanes : List Lane) {s : State} (h : P s.image) :
    P (s.frameLanes k steps lanes).image :=
  foldl_image_keeps _ (fun _ _ => frameLane_keeps hP _ _ _) _ h

theorem lineFollowStep_keeps (maxSpeed left right : Int) {s : State} (h : P s.image) :
    P (s.lineFollowStep maxSpeed left right).image :=
  driveMotor_keeps hP _ _ (driveMotor_keeps hP _ _ h)

end Sys2Proof.Machine
end

