-- ==== Sys2Proof/Laws/PerInstr.lean ====
section
/-! SUPPORT. One law for every instruction: the header of a command's encoding counts its operand words (30_encoding R91),
and a bus payload has five bytes or two (20_memory R62). -/

namespace Sys2Proof.Laws.HeaderCounts

/-- A packet's header counts its operand words; a payload has five bytes or two. -/
def Statement (i : Instr) : Prop :=
  WellFormed i →
    match encode i with
    | .packet [] => False
    | .packet (w0 :: operands) => headerCount w0 = operands.length
    | .payload bytes => bytes.length = 5 ∨ bytes.length = 2

theorem init : Statement .init := fun _ => rfl

theorem setch (ch on off : Word) : Statement (.setch ch on off) := fun _ =>
  show headerCount 0x0203#16 = 3 from rfl

theorem setangle (s deg : Word) : Statement (.setangle s deg) := fun _ =>
  show headerCount 0x0302#16 = 2 from rfl

theorem sweep (s target delay : Word) : Statement (.sweep s target delay) := fun _ =>
  show headerCount 0x0403#16 = 3 from rfl

theorem movesync (dur : Word) (targets : List Word) : Statement (.movesync dur targets) := fun h => by
  have h8 : targets.length ≤ 8 := of_decide_eq_true h
  exact headerCount_header 0x05#8 (by omega)

theorem run (m speed : Word) : Statement (.run m speed) := fun _ =>
  show headerCount 0x0602#16 = 2 from rfl

theorem lfstep (max left right : Word) : Statement (.lfstep max left right) := fun _ =>
  show headerCount 0x0703#16 = 3 from rfl

theorem wdark (thr : Word) : Statement (.wdark thr) := fun _ =>
  show headerCount 0x0801#16 = 1 from rfl

theorem wcolor : Statement .wcolor := fun _ => rfl

theorem reserved (op : Byte) (operands : List Word) : Statement (.reserved op operands) := fun h => by
  have hl : operands.length ≤ 255 := of_decide_eq_true (Bool.and_eq_true_iff.1 h).1
  exact headerCount_header op hl

theorem chwrite (ch : Channel) (onLow onHigh offLow offHigh : Byte) :
    Statement (.chwrite ch onLow onHigh offLow offHigh) := fun _ => .inl rfl

theorem regwrite (reg : CtrlReg) (value : Byte) : Statement (.regwrite reg value) := fun _ => .inr rfl

end Sys2Proof.Laws.HeaderCounts
end

