-- ==== Sys2Proof/Laws/Pwm.lean ====
section
/-! SUPPORT. What the parts of INIT do: the items of its channel writes, and that it leaves auto-increment on. -/

namespace Sys2Proof.Machine

/-- The channels in ascending order are all of them. -/
theorem channels_eq : channels = List.finRange 16 := by decide

/-- The servos in ascending order are all of them. -/
theorem servos_eq : servos = List.finRange 8 := by decide

/-- A fold of zero writes emits one item a channel, in order (40_pwm_driver R135). -/
theorem foldl_zero_trace (l : List Channel) (s : State) :
    (l.foldl (fun s (ch : Channel) => s.setChannel (ch.val : Int) 0 0) s).trace =
      s.trace ++ l.map fun ch => channelItem ch 0 0 := by
  induction l generalizing s with
  | nil => simp
  | cons ch l ih => rw [List.foldl_cons, ih, setChannel_channel]; simp

/-- The items of INIT's zero writes (40_pwm_driver R135). -/
theorem zeroChannels_trace (s : State) :
    s.zeroChannels.trace = s.trace ++ channels.map fun ch => channelItem ch 0 0 :=
  foldl_zero_trace channels s

/-- A fold of servo writes of the persisted angles emits one item a servo, in order (40_pwm_driver R136). -/
theorem foldl_reapply_trace (l : List Servo) (s : State) :
    (l.foldl (fun s i => s.driveServo (servoNumber i) (s.angleOf i)) s).trace =
      s.trace ++ l.map fun i => servoItem i (s.angleOf i) := by
  induction l generalizing s with
  | nil => simp
  | cons i l ih =>
    rw [List.foldl_cons, ih, driveServo_number]
    simp [servoItem, angleOf_congr (channelWrite_angle _ _ _ s)]

/-- The items of INIT's servo writes (40_pwm_driver R136). -/
theorem reapplyAngles_trace (s : State) :
    s.reapplyAngles.trace = s.trace ++ servos.map fun i => servoItem i (s.angleOf i) :=
  foldl_reapply_trace servos s

/-- The byte INIT leaves in the mode register has auto-increment set (40_pwm_driver R134). -/
theorem wakeByte_autoIncrement (old : Byte) : wakeByte old &&& modeAI ≠ 0#8 := by
  have : wakeByte old &&& modeAI = modeAI := by
    apply BitVec.eq_of_getLsbD_eq
    intro i hi
    simp only [wakeByte, modeAI, modeRestart, BitVec.getLsbD_and, BitVec.getLsbD_or]
    cases BitVec.getLsbD 32#8 i <;> simp
  rw [this]
  decide

/-- What a property kept by channel writes needs to hold after INIT: to hold of the image after INIT's four control writes
(40_pwm_driver R132 to R134). -/
theorem initialize_keeps {P : Memory → Prop} (hP : KeptByChannelWrites P) {s : State}
    (h : P ((((s.image.write 0x00 (sleepByte s.modeAnswer)).write 0xFE prescaleValue).write 0x00 s.modeAnswer).write 0x00
      (wakeByte s.modeAnswer))) : P s.initialize.image := by
  unfold State.initialize State.initWith
  apply reapplyAngles_keeps hP
  apply zeroChannels_keeps hP
  rw [regWrite_image, waitBusy_image, regWrite_image, regWrite_image, regWrite_image, readMode_image]
  exact h

/-- After INIT auto-increment is on (40_pwm_driver R134). -/
theorem initialize_autoIncrement (s : State) : autoIncrement s.initialize.image = true := by
  refine initialize_keeps (autoIncrement_kept true) ?_
  simp only [autoIncrement, Memory.read_write, if_pos]
  simpa using wakeByte_autoIncrement _

end Sys2Proof.Machine
end

