-- ==== Sys2Proof/Laws/Servo.lean ====
section
/-! SUPPORT. What the parts of MOVESYNC do: the lanes it plans, the items and angles of a snap and of a frame. -/

namespace Sys2Proof.Machine

/-! ### Planned lanes -/

theorem servos_length : servos.length = 8 := rfl

/-- The lanes of a plan are servos 1 to N in order (41_servo R160, R171). -/
theorem planLanes_servos {targets : List Word} (h : targets.length ≤ 8) (s : State) :
    (s.planLanes targets).map Lane.servo = servos.take targets.length := by
  have key : ∀ (l : List Servo) (ts : List Word), ts.length ≤ l.length →
      (List.zipWith (fun i t => s.planLane i t) l ts).map Lane.servo = l.take ts.length := by
    intro l
    induction l with
    | nil => intro ts h; cases ts <;> simp_all
    | cons i l ih =>
      intro ts h
      cases ts with
      | nil => simp
      | cons t ts =>
        rw [List.zipWith_cons_cons, List.map_cons, ih ts (by simpa using h)]
        rfl
  exact key servos targets (by simpa [servos_length] using h)

@[simp] theorem planLanes_length {targets : List Word} (h : targets.length ≤ 8) (s : State) :
    (s.planLanes targets).length = targets.length := by
  simp [State.planLanes, servos_length, h]

/-- A planned lane: its start is its servo's angle, its target is clamped, its delta is their difference (41_servo R161,
R162). -/
theorem mem_planLanes {targets : List Word} {s : State} {l : Lane} (h : l ∈ s.planLanes targets) :
    l.start = s.angleOf l.servo ∧ legalAngle l.target ∧ l.delta = l.target - l.start := by
  unfold State.planLanes at h
  rw [List.mem_iff_getElem?] at h
  obtain ⟨n, h⟩ := h
  rw [List.getElem?_zipWith] at h
  split at h
  · simp only [Option.some.injEq] at h
    subst h
    exact ⟨rfl, clamp_bounds (by omega), rfl⟩
  · exact absurd h (by simp)

/-- No servo drives two lanes. -/
theorem nodup_of_servos {lanes : List Lane} (h : lanes.map Lane.servo = servos.take lanes.length) :
    (lanes.map Lane.servo).Nodup := by
  rw [h]; exact (by decide : servos.Nodup).sublist (List.take_sublist _ _)

/-- The largest delta bounds every lane's (41_servo R160). -/
theorem natAbs_le_maxAbsDelta {lanes : List Lane} {l : Lane} (h : l ∈ lanes) : l.delta.natAbs ≤ maxAbsDelta lanes := by
  unfold maxAbsDelta
  induction lanes with
  | nil => cases h
  | cons a lanes ih =>
    simp only [List.map_cons, List.foldr_cons]
    rcases List.mem_cons.1 h with rfl | h
    · omega
    · have := ih h; omega

/-- Every delta is 0 exactly when the largest is (41_servo R163). -/
theorem maxAbsDelta_eq_zero {lanes : List Lane} : maxAbsDelta lanes = 0 ↔ ∀ l ∈ lanes, l.delta = 0 := by
  constructor
  · intro h l hl
    have := natAbs_le_maxAbsDelta hl
    omega
  · intro h
    unfold maxAbsDelta
    induction lanes with
    | nil => rfl
    | cons a lanes ih =>
      have h1 := h a (List.mem_cons_self ..)
      have h2 := ih fun l hl => h l (List.mem_cons_of_mem _ hl)
      simp only [List.map_cons, List.foldr_cons, h1, h2]
      rfl

/-! ### Snap and frame -/

/-- The items of a snap: each lane's servo at its target, in lane order (41_servo R163, R168). -/
theorem snapLanes_trace (lanes : List Lane) (s : State) :
    (s.snapLanes lanes).trace = s.trace ++ lanes.map fun l => servoItem l.servo l.target := by
  unfold State.snapLanes
  induction lanes generalizing s with
  | nil => simp
  | cons l lanes ih => rw [List.foldl_cons, ih]; simp

theorem snapLanes_cons (l : Lane) (lanes : List Lane) (s : State) :
    s.snapLanes (l :: lanes) = (s.moveServo l.servo l.target).snapLanes lanes := rfl

/-- A servo that has no lane keeps its angle through a snap. -/
theorem angleOf_snapLanes_other {i : Servo} (lanes : List Lane) (s : State) (h : ∀ l ∈ lanes, l.servo ≠ i) :
    (s.snapLanes lanes).angleOf i = s.angleOf i := by
  induction lanes generalizing s with
  | nil => rfl
  | cons l lanes ih =>
    rw [snapLanes_cons, ih _ fun l hl => h l (List.mem_cons_of_mem _ hl)]
    exact angleOf_moveServo_other (h l (List.mem_cons_self ..)).symm _ _

/-- A lane's servo stands at its target after a snap (41_servo R163, R168). -/
theorem angleOf_snapLanes {lanes : List Lane} (s : State) (hn : (lanes.map Lane.servo).Nodup)
    (ht : ∀ l ∈ lanes, legalAngle l.target) {l : Lane} (hl : l ∈ lanes) :
    (s.snapLanes lanes).angleOf l.servo = l.target := by
  induction lanes generalizing s with
  | nil => cases hl
  | cons a lanes ih =>
    rw [List.map_cons, List.nodup_cons] at hn
    rw [snapLanes_cons]
    rcases List.mem_cons.1 hl with rfl | hl
    · rw [angleOf_snapLanes_other lanes _ fun b hb e => hn.1 (List.mem_map.2 ⟨b, hb, e⟩),
        angleOf_moveServo _ _ (by have := ht l (List.mem_cons_self ..); unfold legalAngle at this; omega), if_pos rfl]
    · exact ih _ hn.2 (fun b hb => ht b (List.mem_cons_of_mem _ hb)) hl

/-- The items of a frame: each lane with a delta at its frame position, in lane order (41_servo R165, R167). -/
theorem frameLanes_trace (k steps : Nat) (lanes : List Lane) (s : State) :
    (s.frameLanes k steps lanes).trace =
      s.trace ++ (lanes.filter fun l => decide (l.delta ≠ 0)).map fun l =>
        servoItem l.servo (framePosition l.start l.delta k steps) := by
  unfold State.frameLanes
  induction lanes generalizing s with
  | nil => simp
  | cons l lanes ih =>
    rw [List.foldl_cons, ih]
    by_cases h : l.delta = 0 <;> simp [State.frameLane, h]

theorem frameLanes_cons (k steps : Nat) (l : Lane) (lanes : List Lane) (s : State) :
    s.frameLanes k steps (l :: lanes) = (s.frameLane k steps l).frameLanes k steps lanes := rfl

theorem angleOf_frameLane_other {i : Servo} {l : Lane} (h : l.servo ≠ i) (k steps : Nat) (s : State) :
    (s.frameLane k steps l).angleOf i = s.angleOf i := by
  unfold State.frameLane
  split
  · rfl
  · exact angleOf_moveServo_other h.symm _ _

/-- A servo that has no lane keeps its angle through a frame. -/
theorem angleOf_frameLanes_other {i : Servo} (k steps : Nat) (lanes : List Lane) (s : State)
    (h : ∀ l ∈ lanes, l.servo ≠ i) : (s.frameLanes k steps lanes).angleOf i = s.angleOf i := by
  induction lanes generalizing s with
  | nil => rfl
  | cons l lanes ih =>
    rw [frameLanes_cons, ih _ fun l hl => h l (List.mem_cons_of_mem _ hl)]
    exact angleOf_frameLane_other (h l (List.mem_cons_self ..)) _ _ _

/-- A lane with a delta stands at its frame position after a frame, and one without keeps its angle (41_servo R165,
R167). -/
theorem angleOf_frameLanes {k steps : Nat} {lanes : List Lane} (s : State) (hn : (lanes.map Lane.servo).Nodup)
    {l : Lane} (hl : l ∈ lanes)
    (hb : -32768 ≤ framePosition l.start l.delta k steps ∧ framePosition l.start l.delta k steps ≤ 32767) :
    (s.frameLanes k steps lanes).angleOf l.servo =
      if l.delta = 0 then s.angleOf l.servo else framePosition l.start l.delta k steps := by
  induction lanes generalizing s with
  | nil => cases hl
  | cons a lanes ih =>
    rw [List.map_cons, List.nodup_cons] at hn
    rw [frameLanes_cons]
    rcases List.mem_cons.1 hl with rfl | hl
    · rw [angleOf_frameLanes_other _ _ lanes _ fun b hb' e => hn.1 (List.mem_map.2 ⟨b, hb', e⟩)]
      unfold State.frameLane
      split
      · rfl
      · rw [angleOf_moveServo _ _ hb, if_pos rfl]
    · rw [ih _ hn.2 hl, angleOf_frameLane_other fun e => hn.1 (e ▸ List.mem_map_of_mem hl)]

end Sys2Proof.Machine
end

