-- ==== Sys2Proof/Laws/Watch.lean ====
section
/-! SUPPORT. What a poll cycle does, in closed form. -/

namespace Sys2Proof.Machine

/-- The entries after a cycle with a sample (43_watchers R206). -/
def polled (sample : Word) (watch : List Watcher) : List Watcher :=
  watch.map fun w => { w with last := isDark sample w.thr }

/-- The events of a cycle with a sample, in append order (43_watchers R206, R208). -/
def darkEvents (sample : Word) (watch : List Watcher) : List Item :=
  (watch.filter (darkEdge sample)).map fun w => .event Config.evDark w.thr

/-- Polling one entry raises its event and appends the polled entry; nothing else changes. -/
theorem pollEntry_eq (sample : Word) (w : Watcher) (s : State) :
    s.pollEntry sample w =
      { s with
        watch := s.watch ++ [{ w with last := isDark sample w.thr }],
        trace := s.trace ++ darkEvents sample [w] } := by
  unfold State.pollEntry darkEvents
  cases h : darkEdge sample w <;> simp [h, State.raiseEvent, State.emit]

theorem foldl_pollEntry (sample : Word) (watch : List Watcher) (s : State) :
    watch.foldl (fun (s' : State) w => s'.pollEntry sample w) s =
      { s with watch := s.watch ++ polled sample watch, trace := s.trace ++ darkEvents sample watch } := by
  induction watch generalizing s with
  | nil => simp [polled, darkEvents]
  | cons w watch ih =>
    rw [List.foldl_cons, ih, pollEntry_eq]
    cases h : darkEdge sample w <;> simp [polled, darkEvents, h]

/-- DARKPOLL in closed form: the sample, the events in append order, the polled entries, the pause, and nothing else
(43_watchers R206, R208, R213). -/
theorem darkPoll_eq (s : State) :
    s.darkPoll =
      { s with
        watch := polled s.ambientAnswer s.watch,
        sleep := { s.sleep with dark := .sleepingUntil (s.env.now + Config.darkPollMs) },
        trace := s.trace ++
          (.ambient s.ambientAnswer :: (darkEvents s.ambientAnswer s.watch ++ [.pause .dark Config.darkPollMs])),
        env := { s.env with ambientIn := s.env.ambientIn.rest } } := by
  rw [State.darkPoll, foldl_pollEntry]
  simp [State.pause, State.readAmbient, Sleeps.set]

/-- COLORPOLL in closed form: the sample, an event if it differs from `LASTCOLOR`, the new `LASTCOLOR`, the pause, and
nothing else (43_watchers R210, R213). -/
theorem colorPoll_eq (s : State) :
    s.colorPoll =
      { s with
        lastColor := s.colorAnswer,
        sleep := { s.sleep with color := .sleepingUntil (s.env.now + Config.colorPollMs) },
        trace := s.trace ++
          (.color s.colorAnswer ::
            ((if s.colorAnswer = s.lastColor then [] else [.event Config.evColor s.colorAnswer]) ++
              [.pause .color Config.colorPollMs])),
        env := { s.env with colorIn := s.env.colorIn.rest } } := by
  unfold State.colorPoll
  by_cases h : s.colorAnswer = s.lastColor <;>
    simp [h, State.pause, State.readColor, State.raiseEvent, State.emit, Sleeps.set]

/-- A cycle keeps the thresholds and their order (43_watchers R215). -/
theorem polled_thresholds (sample : Word) (watch : List Watcher) :
    (polled sample watch).map Watcher.thr = watch.map Watcher.thr := by
  simp [polled, Function.comp_def]

@[simp] theorem polled_length (sample : Word) (watch : List Watcher) : (polled sample watch).length = watch.length := by
  simp [polled]

end Sys2Proof.Machine
end

