-- ==== Sys2Proof/Laws/Step.lean ====
section
/-! SUPPORT. What a command, a choice of the scheduler and a step can do, once. -/

namespace Sys2Proof.Machine

/-- A command on a block that is not busy runs its first segment after its acceptance (60_exceptions R244). -/
theorem command_accepts {s : State} (h : s.busy = false) (i : Instr) (f : State → State) :
    s.command i f = .next (f (s.accept i)) := by
  simp [State.command, h]

theorem command_held_off {s : State} (h : s.busy = true) (i : Instr) (f : State → State) : s.command i f = .next s := by
  simp [State.command, h]

/-- A command of one segment on a block that is not busy. -/
theorem oneSegment_accepts {s : State} (h : s.busy = false) (i : Instr) (f : State → State) :
    s.oneSegment i f = .next (f (s.accept i)).finish :=
  command_accepts h i _

/-- A command answers a next state: the state itself while BUSY is 1, else its first segment's. -/
theorem command_next {s t : State} {i : Instr} {f : State → State} (h : s.command i f = .next t) :
    (s.busy = true ∧ t = s) ∨ (s.busy = false ∧ t = f (s.accept i)) := by
  cases hb : s.busy
  · rw [command_accepts hb] at h; exact .inr ⟨rfl, by injection h with h; exact h.symm⟩
  · rw [command_held_off hb] at h; exact .inl ⟨rfl, by injection h with h; exact h.symm⟩

/-- The chosen task is live, and choosing changes nothing but the scheduler's feed (60_exceptions R243). -/
theorem nextTask_cases {s s' : State} {t : Task} (h : s.nextTask = some (t, s')) :
    t ∈ s.liveTasks ∧ (s' = s ∨ s' = { s with env := { s.env with choiceIn := s.env.choiceIn.rest } }) := by
  unfold State.nextTask at h
  split at h
  · exact absurd h (by simp)
  · rename_i u hu
    simp only [Option.some.injEq, Prod.mk.injEq] at h
    obtain ⟨rfl, rfl⟩ := h
    exact ⟨by simp [hu], .inl rfl⟩
  · rename_i u us _ hu
    simp only [Option.some.injEq, Prod.mk.injEq] at h
    obtain ⟨rfl, rfl⟩ := h
    refine ⟨?_, .inr rfl⟩
    rw [hu]
    have hlt : Feed.value Config.choice s.env.choiceIn % (u :: us).length < (u :: us).length :=
      Nat.mod_lt _ (by simp)
    rw [List.getD_eq_getElem _ _ hlt]
    exact List.getElem_mem _

/-- After the choice and the wake, the outside is as before but for the time and the feeds of the choice and the lateness
(60_exceptions R241, R243). -/
theorem wakeUp_env_of_nextTask {s s' : State} {t u : Task} (h : s.nextTask = some (t, s')) :
    (s'.wakeUp u).env =
      { s.env with
        now := (s'.wakeUp u).env.now, latenessIn := s.env.latenessIn.rest, choiceIn := s'.env.choiceIn } := by
  rcases (nextTask_cases h).2 with rfl | rfl <;> rfl

/-- When a task is live (60_exceptions R243). -/
theorem mem_liveTasks {s : State} {t : Task} : t ∈ s.liveTasks ↔
    match t with
    | .cmd => s.cmdReady = true
    | .dark => s.darkRun = .running
    | .color => s.colorRun = .running := by
  unfold State.liveTasks
  cases t <;> cases h1 : s.cmdReady <;> cases h2 : s.darkRun <;> cases h3 : s.colorRun <;> simp

/-- No task is chosen exactly when none is live. -/
theorem nextTask_none {s : State} : s.nextTask = none ↔ s.liveTasks = [] := by
  unfold State.nextTask
  split <;> simp_all

/-- What a step is: a payload's delivery, nothing, or the chosen task's segment (60_exceptions R242). -/
theorem step_cases (s : State) :
    (∃ bytes rest, s.env.busIn = bytes :: rest ∧
        step s = ({ s with env := { s.env with busIn := rest } }).deliverPayload bytes) ∨
      (s.env.busIn = [] ∧ s.nextTask = none ∧ step s = .next s) ∨
      (∃ t s', s.env.busIn = [] ∧ s.nextTask = some (t, s') ∧ step s = (s'.wakeUp t).runTask t) := by
  unfold step
  cases hb : s.env.busIn with
  | cons bytes rest => exact .inl ⟨bytes, rest, rfl, rfl⟩
  | nil =>
    cases hn : s.nextTask with
    | none => exact .inr (.inl ⟨rfl, rfl, rfl⟩)
    | some p => exact .inr (.inr ⟨p.1, p.2, rfl, rfl, rfl⟩)

/-- What delivering a payload is: the bus write of a channel, the bus write of a control register, or a refusal
(20_memory R62). -/
theorem deliverPayload_next {s t : State} {bytes : List Byte} (h : s.deliverPayload bytes = .next t) :
    (∃ ch p q r b, bytes = [chreg ch, p, q, r, b] ∧ t = s.busWrite (chreg ch) [p, q, r, b]) ∨
      (∃ reg v, bytes = [ctrlOffset reg, v] ∧ t = s.regWrite reg v) := by
  unfold State.deliverPayload at h
  split at h
  · rename_i i hi
    rcases decodePayload_cases hi with ⟨ch, p, q, r, b, rfl, rfl⟩ | ⟨reg, v, rfl, rfl⟩
    · injection h with h
      exact .inl ⟨_, _, _, _, _, rfl, h.symm⟩
    · injection h with h
      exact .inr ⟨_, _, rfl, h.symm⟩
  · exact absurd h (by simp)

/-- The end of a SWEEP's segment: at the target the command ends; else one degree is written, the register updated and
the pause taken, and the command ends too if that degree is the target (41_servo R155, R156). -/
theorem sweepSegment_cases (i : Servo) (target delay : Word) (s : State) :
    (s.angleOf i = target.toInt ∧ s.sweepSegment i target delay = s.finish) ∨
      (s.angleOf i ≠ target.toInt ∧
        ∃ p, p = (({ s with seq := .sweep i target delay }).moveServo i (sweepNext (s.angleOf i) target.toInt)).pause
              .cmd delay.toInt.toNat ∧
          ((sweepNext (s.angleOf i) target.toInt = target.toInt ∧ s.sweepSegment i target delay = p.finish) ∨
            (sweepNext (s.angleOf i) target.toInt ≠ target.toInt ∧ s.sweepSegment i target delay = p))) := by
  by_cases h : s.angleOf i = target.toInt
  · exact .inl ⟨h, by rw [State.sweepSegment, if_pos h]⟩
  · refine .inr ⟨h, _, rfl, ?_⟩
    by_cases h2 : sweepNext (s.angleOf i) target.toInt = target.toInt
    · exact .inl ⟨h2, by rw [State.sweepSegment, if_neg h]; simp only [h2, if_true]⟩
    · exact .inr ⟨h2, by rw [State.sweepSegment, if_neg h]; simp only [h2, if_false]⟩

/-- A segment of an animated MOVESYNC: the next frame and its pause, or the final snap and the end (41_servo R165,
R168). -/
theorem moveSegment_cases (m : Move) (s : State) :
    (m.k < m.steps ∧ s.moveSegment m =
        (({ s with seq := .move { m with k := m.k + 1 } }).frameLanes (m.k + 1) m.steps m.lanes).pause
          .cmd m.frameDelay) ∨
      (m.steps ≤ m.k ∧ s.moveSegment m = (s.snapLanes m.lanes).finish) := by
  by_cases h : m.k < m.steps
  · exact .inl ⟨h, by rw [State.moveSegment, if_pos h]⟩
  · exact .inr ⟨by omega, by rw [State.moveSegment, if_neg h]⟩

/-- The start of a MOVESYNC: the snap and the end, or the first frame with `steps` the largest delta (41_servo R160,
R163, R164). -/
theorem moveStart_cases (dur : Int) (targets : List Word) (s : State) :
    ((maxAbsDelta (s.planLanes targets) = 0 ∨ dur ≤ 0) ∧
        s.moveStart dur targets = (s.snapLanes (s.planLanes targets)).finish) ∨
      (1 ≤ maxAbsDelta (s.planLanes targets) ∧ 0 < dur ∧
        s.moveStart dur targets = s.moveSegment
          { lanes := s.planLanes targets, steps := maxAbsDelta (s.planLanes targets),
            frameDelay := frameDelayOf dur (maxAbsDelta (s.planLanes targets)), k := 0 }) := by
  by_cases h : maxAbsDelta (s.planLanes targets) = 0 ∨ dur ≤ 0
  · exact .inl ⟨h, by simp only [State.moveStart]; rw [if_pos h]⟩
  · have h1 : 1 ≤ maxAbsDelta (s.planLanes targets) := by omega
    refine .inr ⟨h1, by omega, ?_⟩
    simp only [State.moveStart]
    rw [if_neg h, Nat.max_eq_right h1]

/-- What the outside does between two steps leaves every field of the block (60_exceptions R246). -/
theorem eq_of_offered {s t : State} (h : Offered s t) : t = { s with env := t.env } := by
  obtain ⟨_, _, _, _, _, _, rfl⟩ := h; rfl

end Sys2Proof.Machine
end

