-- ==== Sys2Proof/Laws/Segments.lean ====
section
/-! SUPPORT. Everything a step can do, once: each command by its first segment, each task by its segment. The invariants
are proved from `step_next`, without unfolding `step` or `exec` again. -/

namespace Sys2Proof.Machine

/-- The first segment of a command, on the state after its acceptance. -/
def firstSegment : Instr → State → State
  | .init, s => s.initialize.finish
  | .setch ch on off, s => (s.setChannel ch.toInt on.toInt off.toInt).finish
  | .setangle n deg, s => (s.driveServo n.toInt deg.toInt).finish
  | .sweep n target delay, s =>
    match servoOperand n.toInt with
    | some i => s.sweepSegment i target delay
    | none => s.finish
  | .movesync dur targets, s => if targets.length ≤ 8 then s.moveStart dur.toInt targets else s.finish
  | .run m speed, s => (s.driveMotor m.toInt speed.toInt).finish
  | .lfstep max left right, s => (s.lineFollowStep max.toInt left.toInt right.toInt).finish
  | .wdark thr, s => (s.registerDark thr).finish
  | .wcolor, s => ({ s with colorRun := .running }).finish
  | .reserved _ _, s => s.finish
  | .chwrite ch p q r b, s => s.busWrite (chreg ch) [p, q, r, b]
  | .regwrite reg v, s => s.regWrite reg v

/-- A command row: its encoding is a packet. -/
def IsCommand (i : Instr) : Prop := ∃ words, encode i = .packet words

/-- What `exec` does: a command is held off while BUSY is 1, and otherwise accepted, with its first segment; a bus payload
is written. -/
theorem exec_cases (i : Instr) (s : State) :
    (IsCommand i ∧ s.busy = true ∧ exec i s = .next s) ∨
      (IsCommand i ∧ s.busy = false ∧ exec i s = .next (firstSegment i (s.accept i))) ∨
      (¬ IsCommand i ∧ exec i s = .next (firstSegment i s)) := by
  have key : ∀ i, IsCommand i → exec i s = s.command i (firstSegment i) →
      (IsCommand i ∧ s.busy = true ∧ exec i s = .next s) ∨
      (IsCommand i ∧ s.busy = false ∧ exec i s = .next (firstSegment i (s.accept i))) ∨
      (¬ IsCommand i ∧ exec i s = .next (firstSegment i s)) := by
    intro i hc he
    cases hb : s.busy
    · exact .inr (.inl ⟨hc, rfl, he.trans (command_accepts hb _ _)⟩)
    · exact .inl ⟨hc, rfl, he.trans (command_held_off hb _ _)⟩
  cases i with
  | init => exact key _ ⟨_, rfl⟩ rfl
  | setch ch on off => exact key _ ⟨_, rfl⟩ rfl
  | setangle n deg => exact key _ ⟨_, rfl⟩ rfl
  | sweep n target delay => exact key _ ⟨_, rfl⟩ rfl
  | movesync dur targets => exact key _ ⟨_, rfl⟩ rfl
  | run m speed => exact key _ ⟨_, rfl⟩ rfl
  | lfstep max left right => exact key _ ⟨_, rfl⟩ rfl
  | wdark thr => exact key _ ⟨_, rfl⟩ rfl
  | wcolor => exact key _ ⟨_, rfl⟩ rfl
  | reserved op operands => exact key _ ⟨_, rfl⟩ rfl
  | chwrite ch p q r b => exact .inr (.inr ⟨fun h => by obtain ⟨w, hw⟩ := h; exact absurd hw (by simp [encode]), rfl⟩)
  | regwrite reg v => exact .inr (.inr ⟨fun h => by obtain ⟨w, hw⟩ := h; exact absurd hw (by simp [encode]), rfl⟩)

/-- A command on a block that is not busy is accepted and runs its first segment (60_exceptions R244). -/
theorem exec_accepts {i : Instr} {s : State} (hc : IsCommand i) (hb : s.busy = false) :
    exec i s = .next (firstSegment i (s.accept i)) := by
  rcases exec_cases i s with ⟨_, h, _⟩ | ⟨_, _, h⟩ | ⟨h, _⟩
  · exact absurd (hb.symm.trans h) (by simp)
  · exact h
  · exact absurd hc h

/-- An opcode and its operand words are a command row (30_encoding R101: the payload rows are not packets). -/
theorem isCommand_decodeCommand (op : Byte) (operands : List Word) : IsCommand (decodeCommand op operands) := by
  unfold decodeCommand commandRow
  repeat' split
  all_goals
    rcases operands with _ | ⟨a, _ | ⟨b, _ | ⟨c, _ | ⟨d, operands⟩⟩⟩⟩ <;>
      (try simp only [noOperand, oneOperand, twoOperands, threeOperands, moveOperands]) <;> (try split) <;>
        exact ⟨_, rfl⟩

theorem isCommand_of_decode {words : List Word} {i : Instr} (h : decode (.packet words) = .ok i) : IsCommand i := by
  simp only [decode] at h
  unfold decodePacket at h
  split at h
  · exact absurd h (by simp)
  · split at h
    · injection h with h
      exact h ▸ isCommand_decodeCommand _ _
    · exact absurd h (by simp)

/-- A packet taken from the stream holds an instruction (30_encoding R98). -/
theorem decode_of_takePacket {ws packet rest : List Word} (h : takePacket ws = some (packet, rest)) :
    ∃ i, decode (.packet packet) = .ok i := by
  obtain ⟨w0, ops, rfl, hl, _⟩ := takePacket_cases h
  exact ⟨decodeCommand (headerOp w0) ops, by simp only [decode, decodePacket, hl, if_true]⟩

/-- What a step that answers a next state does: the bus write of a payload; nothing; the poll cycle of a running watcher;
the next segment of the command in progress; or the acceptance of a packet with its first segment (60_exceptions R242 to
R244). `s'` is the state after the scheduler's choice. -/
theorem step_next {s t : State} (h : step s = .next t) :
    (∃ bytes rest i, s.env.busIn = bytes :: rest ∧ decode (.payload bytes) = .ok i ∧ ¬ IsCommand i ∧
        t = firstSegment i { s with env := { s.env with busIn := rest } }) ∨
      (s.env.busIn = [] ∧ s.nextTask = none ∧ t = s) ∨
      ∃ s' task, s.env.busIn = [] ∧ s.nextTask = some (task, s') ∧
        (s' = s ∨ s' = { s with env := { s.env with choiceIn := s.env.choiceIn.rest } }) ∧
        match task with
        | .dark => s.darkRun = .running ∧ t = (s'.wakeUp .dark).darkPoll
        | .color => s.colorRun = .running ∧ t = (s'.wakeUp .color).colorPoll
        | .cmd => (s.busy = true ∧ t = (s'.wakeUp .cmd).resume) ∨
            (s.busy = false ∧ ∃ packet rest i, takePacket s.env.cmdIn = some (packet, rest) ∧
              decode (.packet packet) = .ok i ∧ IsCommand i ∧
              t = firstSegment i
                (({ s'.wakeUp .cmd with env := { (s'.wakeUp .cmd).env with cmdIn := rest } } : State).accept i)) := by
  rcases step_cases s with ⟨bytes, rest, hb, hs⟩ | ⟨hb, hn, hs⟩ | ⟨task, s', hb, hn, hs⟩
  · rw [hs] at h
    unfold State.deliverPayload at h
    split at h
    · rename_i i hi
      refine .inl ⟨bytes, rest, i, hb, hi, ?_⟩
      rcases decodePayload_cases hi with ⟨ch, p, q, r, b, rfl, rfl⟩ | ⟨reg, v, rfl, rfl⟩ <;>
        (injection h with h; exact ⟨fun hc => by obtain ⟨w, hw⟩ := hc; exact absurd hw (by simp [encode]), h.symm⟩)
    · exact absurd h (by simp)
  · rw [hs] at h
    injection h with h
    exact .inr (.inl ⟨hb, hn, h.symm⟩)
  · rw [hs] at h
    obtain ⟨hlive, hs'⟩ := nextTask_cases hn
    refine .inr (.inr ⟨s', task, hb, hn, hs', ?_⟩)
    have hbusy : s'.busy = s.busy := by rcases hs' with rfl | rfl <;> rfl
    have hcmd : s'.env.cmdIn = s.env.cmdIn := by rcases hs' with rfl | rfl <;> rfl
    cases task with
    | dark => injection h with h; exact ⟨mem_liveTasks.1 hlive, h.symm⟩
    | color => injection h with h; exact ⟨mem_liveTasks.1 hlive, h.symm⟩
    | cmd =>
      simp only [State.runTask, wakeUp_busy, hbusy] at h
      cases hb : s.busy
      · rw [hb, if_neg (by simp)] at h
        have hready := mem_liveTasks.1 hlive
        simp only [State.cmdReady, hb, Bool.false_or, Option.isSome_iff_exists] at hready
        obtain ⟨⟨packet, rest⟩, ht⟩ := hready
        obtain ⟨i, hi⟩ := decode_of_takePacket ht
        refine .inr ⟨rfl, packet, rest, i, ht, hi, isCommand_of_decode hi, ?_⟩
        have htw : takePacket (s'.wakeUp .cmd).env.cmdIn = some (packet, rest) := by rw [wakeUp_env]; simp only [hcmd, ht]
        simp only [State.acceptPacket, htw, hi] at h
        rcases exec_cases i { s'.wakeUp .cmd with env := { (s'.wakeUp .cmd).env with cmdIn := rest } } with
          ⟨_, hb', _⟩ | ⟨_, _, he⟩ | ⟨hc, _⟩
        · exact absurd hb' (by simp [hbusy, hb])
        · rw [he] at h; injection h with h; exact h.symm
        · exact absurd (isCommand_of_decode hi) hc
      · rw [hb, if_pos rfl] at h
        injection h with h
        exact .inl ⟨rfl, h.symm⟩

end Sys2Proof.Machine
end

