-- ==== Sys2Proof/Machine/Text.lean ====
section
/-! DEFINITION. The text form of a command: its mnemonic, then its operands separated by commas (30_encoding R100). The
block never sees it; it is how a program is written down. -/

namespace Sys2Proof

/-- A command's mnemonic and its operand words in packet order; the bus payloads and malformed packets have no text
form (30_encoding R100, R96). -/
def textParts : Instr → Option (String × List Word)
  | .init => some ("INIT", [])
  | .setch ch on off => some ("SETCH", [ch, on, off])
  | .setangle s deg => some ("SETANGLE", [s, deg])
  | .sweep s target delay => some ("SWEEP", [s, target, delay])
  | .movesync dur targets => some ("MOVESYNC", dur :: targets)
  | .run m speed => some ("RUN", [m, speed])
  | .lfstep max left right => some ("LFSTEP", [max, left, right])
  | .wdark thr => some ("WDARK", [thr])
  | .wcolor => some ("WCOLOR", [])
  | .reserved _ _ => none
  | .chwrite _ _ _ _ _ => none
  | .regwrite _ _ => none

/-- The text of a command, its operands as decimal integers (30_encoding R100). -/
def textOf (i : Instr) : Option String :=
  match textParts i with
  | some (mnemonic, []) => some mnemonic
  | some (mnemonic, operands) => some (mnemonic ++ " " ++ ", ".intercalate (operands.map fun w => toString w.toInt))
  | none => none

/-- The opcode a mnemonic names (30_encoding R96). -/
def opcodeNamed (mnemonic : String) : Option Byte :=
  if mnemonic = "INIT" then some 0x01#8
  else if mnemonic = "SETCH" then some 0x02#8
  else if mnemonic = "SETANGLE" then some 0x03#8
  else if mnemonic = "SWEEP" then some 0x04#8
  else if mnemonic = "MOVESYNC" then some 0x05#8
  else if mnemonic = "RUN" then some 0x06#8
  else if mnemonic = "LFSTEP" then some 0x07#8
  else if mnemonic = "WDARK" then some 0x08#8
  else if mnemonic = "WCOLOR" then some 0x09#8
  else none

/-- The value of a decimal or hexadecimal digit, in either letter case: 30_encoding R100 does not say which. DESIGN CHOICE,
log entry 33. -/
def digitValue (c : Char) : Option Nat :=
  if '0' ≤ c ∧ c ≤ '9' then some (c.toNat - '0'.toNat)
  else if 'a' ≤ c ∧ c ≤ 'f' then some (c.toNat - 'a'.toNat + 10)
  else if 'A' ≤ c ∧ c ≤ 'F' then some (c.toNat - 'A'.toNat + 10)
  else none

/-- A number of digits in a base, most significant first, after a value already read. -/
def readDigits (base value : Nat) : List Char → Option Nat
  | [] => some value
  | c :: cs =>
    match digitValue c with
    | some d => if d < base then readDigits base (value * base + d) cs else none
    | none => none

/-- A number of at least one digit, up to a bound. -/
def readNumber (base bound : Nat) (cs : List Char) : Option Nat :=
  if cs = [] then none
  else
    match readDigits base 0 cs with
    | some n => if n ≤ bound then some n else none
    | none => none

/-- An operand: a decimal integer with an optional minus sign, a `0x` hexadecimal 16-bit pattern, or, for a servo
operand, `S1` to `S8` (30_encoding R100). Leading zeros are read (`S01`, `0x00001`), and a value that 16 bits do not hold is
not: R100 says neither. DESIGN CHOICE, log entry 33. -/
def readOperand (isServo : Bool) : List Char → Option Word
  | 'S' :: cs =>
    match isServo, readNumber 10 8 cs with
    | true, some n => if 1 ≤ n then some (BitVec.ofNat 16 n) else none
    | _, _ => none
  | '0' :: 'x' :: cs => (readNumber 16 65535 cs).map (BitVec.ofNat 16)
  | '-' :: cs => (readNumber 10 32768 cs).map fun n => BitVec.ofInt 16 (-(n : Int))
  | cs => (readNumber 10 32767 cs).map (BitVec.ofNat 16)

/-- Characters without the spaces before and after them; R100 says nothing of spaces. DESIGN CHOICE, log entry 33. -/
def trimSpaces (cs : List Char) : List Char :=
  ((cs.dropWhile (· = ' ')).reverse.dropWhile (· = ' ')).reverse

/-- The parts of a text between commas. -/
def splitCommas : List Char → List (List Char)
  | [] => [[]]
  | ',' :: cs => [] :: splitCommas cs
  | c :: cs =>
    match splitCommas cs with
    | part :: parts => (c :: part) :: parts
    | [] => [[c]]

/-- The operand words of a text, if each can be read; `isServo` says whether the first names a servo. -/
def readOperands (isServo : Bool) : List (List Char) → Option (List Word)
  | [] => some []
  | part :: parts =>
    match readOperand isServo (trimSpaces part), readOperands false parts with
    | some w, some ws => some (w :: ws)
    | _, _ => none

/-- The command a text stands for, if it is one: SETANGLE's and SWEEP's first operand names a servo (30_encoding R100,
R96). -/
def assemble (text : String) : Option Instr :=
  let line := trimSpaces text.toList
  let mnemonic := line.takeWhile (· ≠ ' ')
  let operandText := trimSpaces (line.drop mnemonic.length)
  match opcodeNamed (String.ofList mnemonic) with
  | some op =>
    match readOperands (op = 0x03#8 ∨ op = 0x04#8) (if operandText = [] then [] else splitCommas operandText) with
    | some operands => commandRow op operands
    | none => none
  | none => none

end Sys2Proof
end

