-- ==== Sys2Proof/Tests/Slice0.lean ====
section
/-! SUPPORT. Small tests: ill-formed terms refused, words written out decoded, one step from each family against the
vectors of spec/95_test_vectors.md, and a witness for the hypotheses of every obligation that has some. -/

open Sys2Proof Sys2Proof.Machine

namespace Sys2Proof.Tests

/-! ### Well-formedness: each check refuses an ill-formed term -/

theorem test_wf_movesync_nine_targets : wellFormed (.movesync 1#16 (List.replicate 9 0#16)) = false := by decide

theorem test_wf_reserved_legal_header : wellFormed (.reserved 0x02#8 [0#16, 0#16, 0#16]) = false := by decide

theorem test_wf_reserved_too_long (operands : List Word) (h : operands.length = 256) :
    wellFormed (.reserved 0xFF#8 operands) = false := by simp [wellFormed, h]

theorem test_wf_movesync_eight_targets : wellFormed (.movesync 1#16 (List.replicate 8 0#16)) = true := by decide

/-! ### Decoding: words written out from 30_encoding R91, R96, R98, R105, R106 (V-ENC and the vectors' packets) -/

theorem test_decode_init : decode (.packet [0x0100#16]) = .ok .init := by decide

theorem test_decode_setch : decode (.packet [0x0203#16, 0x0003#16, 0x0001#16, 0x0FFF#16]) =
    .ok (.setch 3#16 1#16 4095#16) := by decide

theorem test_decode_setangle : decode (.packet [0x0302#16, 0x0004#16, 0xFFC3#16]) =
    .ok (.setangle 4#16 (-61)) := by decide

theorem test_decode_sweep : decode (.packet [0x0403#16, 0x0001#16, 0xFFFE#16, 0xFFF9#16]) =
    .ok (.sweep 1#16 (-2) (-7)) := by decide

theorem test_decode_movesync : decode (.packet [0x0504#16, 0x0007#16, 0x005D#16, 0x005A#16, 0x0058#16]) =
    .ok (.movesync 7#16 [93#16, 90#16, 88#16]) := by decide

theorem test_decode_movesync_no_target : decode (.packet [0x0501#16, 0x01F4#16]) = .ok (.movesync 500#16 []) := by decide

theorem test_decode_run : decode (.packet [0x0602#16, 0x0001#16, 0xFF9C#16]) = .ok (.run 1#16 (-100)) := by decide

theorem test_decode_lfstep : decode (.packet [0x0703#16, 0x012C#16, 0x0000#16, 0x0001#16]) =
    .ok (.lfstep 300#16 0#16 1#16) := by decide

theorem test_decode_wdark : decode (.packet [0x0801#16, 0x0032#16]) = .ok (.wdark 50#16) := by decide

theorem test_decode_wcolor : decode (.packet [0x0900#16]) = .ok .wcolor := by decide

theorem test_decode_reserved_opcode : decode (.packet [0xFF02#16, 0x0001#16, 0x0002#16]) =
    .ok (.reserved 0xFF#8 [1#16, 2#16]) := by decide

theorem test_decode_reserved_nine_targets : decode (.packet (0x050A#16 :: List.replicate 10 0#16)) =
    .ok (.reserved 0x05#8 (List.replicate 10 0#16)) := by decide

theorem test_decode_chwrite : decode (.payload [0x12#8, 0x01#8, 0x00#8, 0xFF#8, 0x0F#8]) =
    .ok (.chwrite 3 0x01#8 0x00#8 0xFF#8 0x0F#8) := by decide

theorem test_decode_regwrite : decode (.payload [0xFE#8, 0x79#8]) = .ok (.regwrite .prescale 0x79#8) := by decide

theorem test_decode_payload_other_offset : decode (.payload [0x46#8, 0#8, 0#8, 0#8, 0#8]) = .error .notAPayload := by
  decide

theorem test_decode_short_packet : decode (.packet [0x0302#16, 0x0001#16]) = .error .wrongLength := by decide

/-! ### The text form (30_encoding R100) -/

theorem test_text_sweep : assemble "SWEEP S2, 87, 20" = some (.sweep 2#16 87#16 20#16) := by decide

theorem test_text_setch : assemble "SETCH 0, 0xFFFF, 32767" = some (.setch 0#16 (-1) 32767#16) := by decide

theorem test_text_movesync_too_many : assemble "MOVESYNC 1,2,3,4,5,6,7,8,9,10" = none := by decide

theorem test_text_run : textOf (.run 1#16 (-300)) = some "RUN 1, -300" := by decide

/-! ### The table's numbering -/

theorem test_table_run : decodeTableWord 16 0x0602 = some (.run 0#16 0#16) := by decide

theorem test_table_movesync : decodeTableWord 48 0x005D00070502 = some (.movesync 7#16 [93#16]) := by decide

theorem test_table_chwrite : decodeTableWord 40 0xEB01000042 = some (.chwrite 15 0x00#8 0x00#8 0x01#8 0xEB#8) := by
  decide

/-! ### One step from reset

What is compared: the bytes of each bus write on the trace, in order. -/

/-- The bytes of a bus write. -/
def bytesOf : Item → Option (List Byte)
  | .write _ bytes => some bytes
  | _ => none

/-- A field of the next state, if there is one. -/
def ofNext {α : Type} (f : State → α) : Host.Outcome State Fault Refusal → Option α
  | .next s => some (f s)
  | _ => none

/-- The bytes of the bus writes on the trace of the next state. -/
def writes (o : Host.Outcome State Fault Refusal) : Option (List (List Byte)) :=
  ofNext (fun s => s.trace.filterMap bytesOf) o

/-- The state after reset with a mode register answer pinned. -/
def withMode (v : Byte) : State := { State.reset with env := { State.reset.env with modeIn := ⟨[v], 0⟩ } }

/-- The state after reset with the words of a packet on the CMD port. -/
def withPacket (words : List Word) : State := { State.reset with env := { State.reset.env with cmdIn := words } }

/-- The state after reset with auto-increment set in the image. -/
def withAI : State := { State.reset with image := [(0, modeAI)] }

/-- V-INIT-2, the row of 0x11: the four control writes. -/
theorem test_init_control_writes : (writes (exec .init (withMode 0x11#8))).map (List.take 4) =
    some [[0x00#8, 0x11#8], [0xFE#8, 0x79#8], [0x00#8, 0x11#8], [0x00#8, 0xB1#8]] := by decide

/-- V-INIT: the last zero write and the first servo write. -/
theorem test_init_channel_writes : (writes (exec .init (withMode 0x00#8))).map (fun l => (l.length, (l.drop 19).take 2)) =
    some (28, [[0x42#8, 0#8, 0#8, 0#8, 0#8], [0x26#8, 0#8, 0#8, 0x33#8, 0x01#8]]) := by decide

/-- V-SETCH: the words are sent as they are. -/
theorem test_setch_bytes : writes (exec (.setch 0#16 (-1) 32767#16) State.reset) =
    some [[0x06#8, 0xFF#8, 0xFF#8, 0xFF#8, 0x7F#8]] := by decide

/-- V-SETCH: no write above channel 15. -/
theorem test_setch_outside : writes (exec (.setch 16#16 0#16 100#16) State.reset) = some [] := by decide

/-- V-SA: a negative tick is truncated toward zero and sent in two's complement. -/
theorem test_setangle_negative : writes (exec (.setangle 4#16 (-61)) State.reset) =
    some [[0x32#8, 0#8, 0#8, 0xFE#8, 0xFF#8]] := by decide

/-- V-SA: the persisted angle is untouched. -/
theorem test_setangle_keeps_angle : ofNext State.angle (exec (.setangle 1#16 0#16) State.reset) =
    some State.reset.angle := by decide

/-- V-SW-1: the first segment's write. -/
theorem test_sweep_first_degree : writes (exec (.sweep 2#16 87#16 20#16) State.reset) =
    some [[0x2A#8, 0#8, 0#8, 0x31#8, 0x01#8]] := by decide

/-- V-SW-1: the register after the first segment. -/
theorem test_sweep_register : ofNext (fun s => (s.angle[1], s.angle[0], s.busy))
    (exec (.sweep 2#16 87#16 20#16) State.reset) = some (89#16, 90#16, true) := by decide

/-- V-MS-2, the first frame: the tie at 90.5 goes up. -/
theorem test_movesync_tie : writes (exec (.movesync 1000#16 [92#16, 91#16]) State.reset) =
    some [[0x26#8, 0#8, 0#8, 0x35#8, 0x01#8], [0x2A#8, 0#8, 0#8, 0x35#8, 0x01#8]] := by decide

/-- V-MS-6: the snap clamps both ways. -/
theorem test_movesync_snap_clamps : ofNext (fun s => (s.trace.filterMap bytesOf, s.angle[0], s.angle[1]))
    (exec (.movesync 0#16 [200#16, -5]) State.reset) =
    some ([[0x26#8, 0#8, 0#8, 0xEB#8, 0x01#8], [0x2A#8, 0#8, 0#8, 0x7A#8, 0#8]], 180#16, 0#16) := by decide

/-- V-RUN-8: reverse, clamped, the zero channel first. -/
theorem test_run_reverse_clamped : writes (exec (.run 1#16 (-300)) State.reset) =
    some [[0x06#8, 0#8, 0#8, 0#8, 0#8], [0x0A#8, 0#8, 0#8, 0xFF#8, 0x0F#8]] := by decide

/-- V-RUN-10: no write for motor 5. -/
theorem test_run_no_motor : writes (exec (.run 5#16 10#16) State.reset) = some [] := by decide

/-- V-LF-2: the left motor stops, the right runs at the clamped speed. -/
theorem test_lfstep_left_on_line : writes (exec (.lfstep 300#16 0#16 1#16) State.reset) =
    some [[0x0A#8, 0#8, 0#8, 0#8, 0#8], [0x06#8, 0#8, 0#8, 0#8, 0#8], [0x12#8, 0#8, 0#8, 0#8, 0#8],
      [0x0E#8, 0#8, 0#8, 0xF0#8, 0x0F#8]] := by decide

/-- V-LF-8: a non-zero left word is off the line. -/
theorem test_lfstep_right_on_line : writes (exec (.lfstep 200#16 (-1) 0#16) State.reset) =
    some [[0x0A#8, 0#8, 0#8, 0#8, 0#8], [0x06#8, 0#8, 0#8, 0x80#8, 0x0C#8], [0x12#8, 0#8, 0#8, 0#8, 0#8],
      [0x0E#8, 0#8, 0#8, 0#8, 0#8]] := by decide

/-- V-WD-1: the dark watcher runs. -/
theorem test_wdark_runs : ofNext (fun s => (s.darkRun, s.colorRun)) (exec (.wdark 50#16) State.reset) =
    some (.running, .idle) := by decide

/-- V-WD-1: the colour watcher runs. -/
theorem test_wcolor_runs : ofNext (fun s => (s.darkRun, s.colorRun)) (exec .wcolor State.reset) =
    some (.idle, .running) := by decide

/-- V-ENC: a reserved packet does nothing and completes. -/
theorem test_reserved_completes : ofNext (fun s => (s.trace, s.busy)) (exec (.reserved 0x0A#8 []) State.reset) =
    some ([.accepted [0x0A00#16], .done .cmd], false) := by decide

/-- 20_memory R66: byte j at offset + j, with auto-increment on. -/
theorem test_chwrite_bytes : ofNext State.image (exec (.chwrite 0 1#8 2#8 3#8 4#8) withAI) =
    some [(0, modeAI), (6, 1#8), (7, 2#8), (8, 3#8), (9, 4#8)] := by decide

/-- 30_encoding R106: the prescale register. -/
theorem test_regwrite_byte : ofNext State.image (exec (.regwrite .prescale 0x79#8) withAI) =
    some [(0, modeAI), (0xFE, 0x79#8)] := by decide

/-- An instruction of the table runs as the first step after reset. -/
theorem test_step_runs_placed_packet : (writes (step (State.reset.withFetchWord 64 0x0FFF000100030203))) =
    some [[0x12#8, 0x01#8, 0x00#8, 0xFF#8, 0x0F#8]] := by decide

/-- V-WD-3, index 4: two events in append order after one sample. -/
theorem test_darkpoll_two_events :
    ((({ State.reset with
        watch := [⟨50#16, false⟩, ⟨35#16, false⟩],
        env := { State.reset.env with ambientIn := ⟨[30#16], 0⟩ } } : State).darkPoll.trace).take 3) =
      [.ambient 30#16, .event Config.evDark 50#16, .event Config.evDark 35#16] := rfl

/-- V-WD-6: a negative threshold never fires. -/
theorem test_dark_negative_threshold : isDark 0#16 (-1) = false ∧ isDark 65535#16 32767#16 = false := by decide

/-- V-WC-1: a change to `None`, the first member of COLORS, is a change. -/
theorem test_colorpoll_to_none :
    ((({ State.reset with
        lastColor := 3#16, env := { State.reset.env with colorIn := ⟨[0], 0⟩ } } : State).colorPoll.trace).take 2) =
      [.color 0#16, .event Config.evColor 0#16] := rfl

/-- V-TICKS-X: extreme arguments. -/
theorem test_ticks_extremes : ticks (-32768) = -66985 ∧ ticks (-62) = -4 ∧ ticks 1939 = 4093 ∧ ticks 32767 = 67229 := by
  decide

/-! ### Witnesses: the hypotheses of each obligation that has some hold together, each clause at a boundary -/

theorem test_witness_DecodeOfEncode : WellFormed (.movesync 1#16 (List.replicate 8 0#16)) ∧
    WellFormed (.reserved 0x02#8 [0#16, 0#16]) := by decide

theorem test_witness_EncodeOfDecode : decode (.payload [0x42#8, 0#8, 0#8, 0#8, 0#8]) = .ok (.chwrite 15 0#8 0#8 0#8 0#8) := by
  decide

theorem test_witness_MalformedPacket : ([0#16] : List Word).length = headerCount 0x0101#16 ∧
    legalCount (headerOp 0x0101#16) ([0#16] : List Word).length = false := by decide

theorem test_witness_WholePacket : takePacket [0x0801#16, 50#16, 0x0900#16] = some ([0x0801#16, 50#16], [0x0900#16]) := by
  decide

theorem test_witness_StepRunsTheDecodedPacket : (withPacket [0x0900#16]).env.busIn = [] ∧
    (withPacket [0x0900#16]).nextTask = some (.cmd, withPacket [0x0900#16]) ∧
    (withPacket [0x0900#16]).busy = false ∧
    takePacket (withPacket [0x0900#16]).env.cmdIn = some ([0x0900#16], []) ∧
    decode (.packet [0x0900#16]) = .ok .wcolor := ⟨rfl, rfl, rfl, rfl, rfl⟩

/-- The state after reset with bus payloads to deliver. -/
def withPayload (bytes : List (List Byte)) : State := { State.reset with env := { State.reset.env with busIn := bytes } }

theorem test_witness_StepDelivers : (withPayload [[0xFE#8, 0x79#8]]).env.busIn = [0xFE#8, 0x79#8] :: [] ∧
    decode (.payload [0xFE#8, 0x79#8]) = .ok (.regwrite .prescale 0x79#8) := by decide

theorem test_witness_OtherPayloads : (withPayload [[0x01#8, 0x79#8]]).env.busIn = [0x01#8, 0x79#8] :: [] ∧
    decode (.payload [0x01#8, 0x79#8]) = .error .notAPayload := by decide

theorem test_witness_NothingStops : ∀ bytes ∈ (withPayload [[0x00#8, 0x20#8]]).env.busIn.head?,
    ∃ i, decode (.payload bytes) = .ok i := by
  intro bytes h
  obtain rfl : [0x00#8, 0x20#8] = bytes := by simpa [withPayload] using h
  exact ⟨.regwrite .mode 0x20#8, by decide⟩

theorem test_witness_Scheduler : (withPacket [0x0900#16]).nextTask = some (.cmd, withPacket [0x0900#16]) ∧
    Machine.Task.cmd ∈ (withPacket [0x0900#16]).liveTasks := ⟨rfl, by decide⟩

theorem test_witness_NothingHappens : State.reset.env.busIn = [] ∧ State.reset.cmdReady = false ∧
    State.reset.darkRun = .idle ∧ State.reset.colorRun = .idle := by decide

/-- A step that answers a next state: the hypothesis of the statements about every step. -/
theorem test_witness_step : ∃ t, step (withPacket [0x0900#16]) = .next t := ⟨_, rfl⟩

/-- A SWEEP of servo 1 from 90 to 91 in progress, both watchers Idle. -/
def sweeping : State := { State.reset with busy := true, seq := .sweep 0 91#16 0#16 }

theorem test_witness_BusyBlock : sweeping.busy = true ∧ encode .init = .packet [0x0100#16] := by decide

theorem test_witness_BusyBlock_step : ∃ t, step sweeping = .next t := ⟨_, rfl⟩

theorem test_witness_SweepGoesOn : sweeping.env.busIn = [] ∧ sweeping.nextTask = some (.cmd, sweeping) ∧
    sweeping.busy = true ∧ sweeping.seq = .sweep 0 91#16 0#16 ∧ sweeping.angleOf 0 ≠ (91#16 : Word).toInt :=
  ⟨rfl, rfl, rfl, rfl, by decide⟩

theorem test_witness_PlacedInstruction : decodeTableWord 16 0x0100 = some .init ∧
    decodeTableWord 40 0x0000000006 = some (.chwrite 0 0#8 0#8 0#8 0#8) := by decide

theorem test_witness_Chwrite : autoIncrement withAI.image = true := by decide

theorem test_witness_ChannelIsHigh : (4095 ≤ 4095) ∧ autoIncrement withAI.image = true := by decide

/-- The hypothesis of the statements about an accepted command. -/
theorem test_witness_accepts : State.reset.busy = false ∧ withAI.busy = false := by decide

theorem test_witness_Setch : (0#16 : Word).toInt = ((0 : Channel).val : Int) ∧ (15#16 : Word).toInt = ((15 : Channel).val : Int) ∧
    (0 ≤ (4095#16 : Word).toInt ∧ (4095#16 : Word).toInt ≤ 4095) ∧
    ((-1 : Word).toInt < 0 ∨ (-1 : Word).toInt > 15) ∧ ((16#16 : Word).toInt < 0 ∨ (16#16 : Word).toInt > 15) := by decide

theorem test_witness_Setangle : (1#16 : Word).toInt = ((0 : Servo).val : Int) + 1 ∧
    (8#16 : Word).toInt = ((7 : Servo).val : Int) + 1 ∧
    ((0#16 : Word).toInt < 1 ∨ (0#16 : Word).toInt > 8) ∧ ((9#16 : Word).toInt < 1 ∨ (9#16 : Word).toInt > 8) := by decide

theorem test_witness_SweepTakesOneDegree : State.reset.busy = false ∧ (8#16 : Word).toInt = ((7 : Servo).val : Int) + 1 ∧
    State.reset.angleOf 7 ≠ (89#16 : Word).toInt ∧ State.reset.angleOf 7 ≠ (32767#16 : Word).toInt := by decide

theorem test_witness_SweepWithoutDistance : State.reset.busy = false ∧ (0#16 : Word).toInt < 1 ∧ (9#16 : Word).toInt > 8 ∧
    (1#16 : Word).toInt = ((0 : Servo).val : Int) + 1 ∧ State.reset.angleOf 0 = (90#16 : Word).toInt := by decide

theorem test_witness_CmdAlone : CmdAlone State.reset := ⟨rfl, rfl, rfl⟩

theorem test_witness_SweepConverges : State.reset.busy = false ∧ (1#16 : Word).toInt = ((0 : Servo).val : Int) + 1 ∧
    1 = ((91#16 : Word).toInt - State.reset.angleOf 0).natAbs ∧ 92 = ((182#16 : Word).toInt - State.reset.angleOf 0).natAbs := by
  decide

theorem test_witness_SweepConverges_exec : ∃ t, exec (.sweep 1#16 182#16 5#16) State.reset = .next t := ⟨_, rfl⟩

theorem test_witness_MovesyncSnaps : State.reset.busy = false ∧ (List.replicate 8 90#16).length ≤ 8 ∧
    moveDistance (List.replicate 8 90#16) State.reset = 0 ∧ moveDistance [] State.reset = 0 ∧ (0#16 : Word).toInt ≤ 0 ∧
    autoIncrement withAI.image = true ∧ InTargets [90#16] 0 := by unfold InTargets; decide

theorem test_witness_MovesyncStarts : State.reset.busy = false ∧ (List.replicate 8 91#16).length ≤ 8 ∧
    1 ≤ moveDistance (List.replicate 8 91#16) State.reset ∧ 0 < (1#16 : Word).toInt := by decide

/-- A MOVESYNC of servo 1 from 90 to 93 with `k` of its 3 frames written (V-MS-1). -/
def movingMove (k : Nat) : Move := { lanes := [⟨0, 93, 90, 3⟩], steps := 3, frameDelay := 2, k := k }

/-- The state with that MOVESYNC in progress and servo 1 at an angle. -/
def moving (k : Nat) (a : Word) : State :=
  { State.reset with angle := State.reset.angle.set 0 a, busy := true, seq := .move (movingMove k) }

theorem movingMove_legal {k : Nat} (h : 1 ≤ k ∧ k ≤ 3) : (movingMove k).Legal :=
  ⟨rfl, fun l hl => by
    obtain rfl : l = ⟨0, 93, 90, 3⟩ := by simpa [movingMove] using hl
    exact ⟨by unfold legalAngle; decide, by decide, by decide, by decide, Nat.le_refl 3⟩, rfl, Nat.le_succ 1, h.1, h.2⟩

theorem moving_inv {k : Nat} (h : 1 ≤ k ∧ k ≤ 3) {a : Word} (ha : a.toInt = framePosition 90 3 k 3) : Inv (moving k a) where
  imageCanonical := Memory.powerOn_wf
  imageDescribed := Memory.powerOn_described
  imageComplete := Memory.powerOn_complete
  lastColor := List.mem_cons_self ..
  busySeq := by simp [moving]
  seqLegal := ⟨movingMove_legal h, fun l hl => by
    obtain rfl : l = ⟨0, 93, 90, 3⟩ := by simpa [movingMove] using hl
    simpa [State.angleOf, moving, movingMove] using ha⟩
  capacity := fun n _ => Nat.zero_le n
  started := fun _ => rfl

theorem test_witness_MovesyncWritesItsNextFrame : Inv (moving 1 91#16) ∧ (moving 1 91#16).env.busIn = [] ∧
    (moving 1 91#16).nextTask = some (.cmd, moving 1 91#16) ∧ (moving 1 91#16).seq = .move (movingMove 1) ∧
    (movingMove 1).k < (movingMove 1).steps :=
  ⟨moving_inv (by decide) (by decide), rfl, rfl, rfl, by decide⟩

theorem test_witness_MovesyncEndsWithItsFinalSnap : Inv (moving 3 93#16) ∧ (moving 3 93#16).env.busIn = [] ∧
    (moving 3 93#16).nextTask = some (.cmd, moving 3 93#16) ∧ (moving 3 93#16).seq = .move (movingMove 3) ∧
    (movingMove 3).k = (movingMove 3).steps :=
  ⟨moving_inv (by decide) (by decide), rfl, rfl, rfl, by decide⟩

theorem test_witness_MovesyncEndsUnderEverySchedule : Inv (moving 3 93#16) ∧ (moving 3 93#16).seq = .move (movingMove 3) ∧
    ∃ t, step (moving 3 93#16) = .next t :=
  ⟨moving_inv (by decide) (by decide), rfl, _, rfl⟩

theorem test_witness_MovesyncReachesItsTargets : State.reset.busy = false ∧ CmdAlone State.reset ∧
    ([93#16, 90#16, 88#16] : List Word).length ≤ 8 ∧ ∃ t, exec (.movesync 7#16 [93#16, 90#16, 88#16]) State.reset = .next t :=
  ⟨rfl, ⟨rfl, rfl, rfl⟩, by decide, _, rfl⟩

theorem test_witness_FramePositions : 1 ≤ 3 ∧ 3 ≤ 3 ∧ (0 : Nat) ≤ 3 := by decide

theorem test_witness_Run : (1#16 : Word).toInt = ((0 : Fin 4).val : Int) + 1 ∧ (0 : Channel).val = 2 * (0 : Fin 4).val ∧
    (1 : Channel).val = 2 * (0 : Fin 4).val + 1 ∧ (4#16 : Word).toInt = ((3 : Fin 4).val : Int) + 1 ∧
    (6 : Channel).val = 2 * (3 : Fin 4).val ∧ (7 : Channel).val = 2 * (3 : Fin 4).val + 1 ∧
    -4095 = clamp (16 * (-256 : Word).toInt) (-4095) 4095 ∧ 4095 = clamp (16 * (256#16 : Word).toInt) (-4095) 4095 ∧
    ((0#16 : Word).toInt < 1 ∨ (0#16 : Word).toInt > 4) ∧ ((5#16 : Word).toInt < 1 ∨ (5#16 : Word).toInt > 4) := by decide

theorem test_witness_RunNever : withAI.busy = false ∧ autoIncrement withAI.image = true ∧
    ∃ t, exec (.run 1#16 (-256)) withAI = .next t := ⟨rfl, by decide, _, rfl⟩

theorem test_witness_Lfstep : withAI.busy = false ∧ autoIncrement withAI.image = true ∧
    255 = clamp (300#16 : Word).toInt 0 255 ∧ 0 = clamp (-5 : Word).toInt 0 255 ∧
    ((0, 255) : Int × Int) = (if (0#16 : Word) = 0#16 then if (1#16 : Word) = 0#16 then (255, 255) else (0, 255)
      else if (1#16 : Word) = 0#16 then (255, 0) else (0, 0)) := by decide

/-- The state after reset with one watcher Running and one entry. -/
def watching (dark color : TaskState) : State :=
  { State.reset with watch := [⟨50#16, false⟩], darkRun := dark, colorRun := color }

theorem test_witness_Darkpoll : (watching .running .idle).env.busIn = [] ∧
    (watching .running .idle).nextTask = some (.dark, watching .running .idle) := ⟨rfl, rfl⟩

theorem test_witness_Colorpoll : (watching .idle .running).env.busIn = [] ∧
    (watching .idle .running).nextTask = some (.color, watching .idle .running) := ⟨rfl, rfl⟩

theorem test_witness_WatchersNeverStop : (watching .running .running).darkRun = .running ∧
    (watching .running .running).colorRun = .running ∧ ∃ t, step (watching .running .idle) = .next t :=
  ⟨rfl, rfl, _, rfl⟩

theorem test_witness_Invariant : Inv (moving 1 91#16) ∧ ∃ t, step (moving 1 91#16) = .next t :=
  ⟨moving_inv (by decide) (by decide), _, rfl⟩

/-- The state of `moving` with a SWEEP to the end of the range presented. -/
def movingThenSweep : State :=
  { moving 1 91#16 with env := { State.reset.env with cmdIn := [0x0403#16, 1#16, 180#16, 0#16] } }

theorem test_witness_InRange : Inv movingThenSweep ∧ AnglesInRange movingThenSweep ∧ SeqInRange movingThenSweep ∧
    (∀ i, movingThenSweep.presented = some i → TargetInRange i) ∧ ∃ t, step movingThenSweep = .next t := by
  have h := moving_inv (k := 1) (by decide) (a := 91#16) (by decide)
  refine ⟨⟨h.imageCanonical, h.imageDescribed, h.imageComplete, h.lastColor, h.busySeq, h.seqLegal, h.capacity, h.started⟩, ?_, ?_, ?_, _, rfl⟩
  · unfold AnglesInRange legalAngle; decide
  · intro l hl
    obtain rfl : l = ⟨0, 93, 90, 3⟩ := by simpa [movingMove] using hl
    unfold legalAngle; decide
  · intro i hi
    have e : movingThenSweep.presented = some (.sweep 1#16 180#16 0#16) := by decide
    obtain rfl : .sweep 1#16 180#16 0#16 = i := Option.some.inj (e.symm.trans hi)
    unfold TargetInRange legalAngle; decide

theorem test_witness_AutoIncrementStaysOn : withAI.env.busIn = [] ∧ autoIncrement withAI.image = true ∧
    ∃ t, step withAI = .next t := ⟨rfl, by decide, _, rfl⟩

theorem test_witness_OneWriter : (∃ t, exec (.setangle 1#16 0#16) State.reset = .next t) ∧
    (∀ n target delay, Instr.setangle 1#16 0#16 ≠ .sweep n target delay) ∧
    (∀ dur targets, Instr.setangle 1#16 0#16 ≠ .movesync dur targets) ∧
    (∀ thr, Instr.setangle 1#16 0#16 ≠ .wdark thr) ∧ Instr.setangle 1#16 0#16 ≠ .wcolor ∧
    Instr.setangle 1#16 0#16 ≠ .init := ⟨⟨_, rfl⟩, by simp, by simp, by simp, by simp, by simp⟩

theorem test_witness_Pauses : (watching .running .idle).env.busIn = [] ∧
    (watching .running .idle).nextTask = some (.dark, watching .running .idle) ∧
    ∃ t, step (watching .running .idle) = .next t := ⟨rfl, rfl, _, rfl⟩

/-- A SWEEP of one degree in progress with both watchers Running, CMD the scheduler's next choice. -/
def allLive : State :=
  { State.reset with
    busy := true, seq := .sweep 0 91#16 0#16, darkRun := .running, colorRun := .running,
    env := { State.reset.env with choiceIn := ⟨[0], 0⟩ } }

/-- A run from there: the SWEEP ends, and then the watchers are chosen in turn. -/
def takingTurns : Nat → State
  | 0 => allLive
  | n + 1 =>
    match step (takingTurns n) with
    | .next t => { t with env := { t.env with choiceIn := ⟨[n % 2], 0⟩ } }
    | _ => State.reset

/-- What every later state of that run is: idle, both watchers Running, the next choice made. -/
structure InTurn (n : Nat) (s : State) : Prop where
  busIn : s.env.busIn = []
  cmdIn : s.env.cmdIn = []
  busy : s.busy = false
  darkRun : s.darkRun = .running
  colorRun : s.colorRun = .running
  choice : s.env.choiceIn = ⟨[n % 2], 0⟩

theorem inTurn_nextTask {n : Nat} {s : State} (h : InTurn n s) :
    ∃ s', s.nextTask = some (if n % 2 = 0 then .dark else .color, s') := by
  have hl : s.liveTasks = [.dark, .color] := by
    simp [State.liveTasks, State.cmdReady, h.cmdIn, takePacket, h.busy, h.darkRun, h.colorRun]
  rcases Nat.mod_two_eq_zero_or_one n with e | e <;>
    simp [State.nextTask, hl, h.choice, Feed.value, e]

theorem inTurn_step {n : Nat} {s : State} (h : InTurn n s) :
    ∃ t, step s = .next t ∧ ∀ m, InTurn m { t with env := { t.env with choiceIn := ⟨[m % 2], 0⟩ } } := by
  obtain ⟨s', hn⟩ := inTurn_nextTask h
  obtain ⟨task, htask⟩ : ∃ task, task = if n % 2 = 0 then Machine.Task.dark else .color := ⟨_, rfl⟩
  rw [← htask] at hn
  have hs : step s = (s'.wakeUp task).runTask task := by simp only [step, h.busIn, hn]
  have hs' := (nextTask_cases hn).2
  rw [hs]
  cases task with
  | cmd => split at htask <;> cases htask
  | dark =>
    refine ⟨_, rfl, fun m => ?_⟩
    rw [darkPoll_eq]
    rcases hs' with rfl | rfl <;> exact ⟨h.busIn, h.cmdIn, h.busy, h.darkRun, h.colorRun, rfl⟩
  | color =>
    refine ⟨_, rfl, fun m => ?_⟩
    rw [colorPoll_eq]
    rcases hs' with rfl | rfl <;> exact ⟨h.busIn, h.cmdIn, h.busy, h.darkRun, h.colorRun, rfl⟩

theorem allLive_step : ∃ t, step allLive = .next t ∧
    ∀ m, InTurn m { t with env := { t.env with choiceIn := ⟨[m % 2], 0⟩ } } :=
  ⟨_, rfl, fun _ => ⟨rfl, rfl, rfl, rfl, rfl, rfl⟩⟩

theorem takingTurns_step (n : Nat) : ∃ t, step (takingTurns n) = .next t ∧
    takingTurns (n + 1) = { t with env := { t.env with choiceIn := ⟨[n % 2], 0⟩ } } ∧
    InTurn n (takingTurns (n + 1)) := by
  have key : ∃ t, step (takingTurns n) = .next t ∧
      ∀ m, InTurn m { t with env := { t.env with choiceIn := ⟨[m % 2], 0⟩ } } := by
    induction n with
    | zero => exact allLive_step
    | succ n ih =>
      obtain ⟨t, ht, hm⟩ := ih
      have e : takingTurns (n + 1) = { t with env := { t.env with choiceIn := ⟨[n % 2], 0⟩ } } := by
        simp only [takingTurns, ht]
      exact inTurn_step (e ▸ hm n)
  obtain ⟨t, ht, hm⟩ := key
  have e : takingTurns (n + 1) = { t with env := { t.env with choiceIn := ⟨[n % 2], 0⟩ } } := by
    simp only [takingTurns, ht]
  exact ⟨t, ht, e, e ▸ hm n⟩

theorem takingTurns_run : IsRun takingTurns := fun n => by
  obtain ⟨t, ht, e, _⟩ := takingTurns_step n
  exact ⟨t, ht, [], _, _, _, _, _, by rw [e, List.append_nil]⟩

theorem takingTurns_chosen (n : Nat) :
    Chosen (if n % 2 = 0 then .dark else .color) (takingTurns (n + 1)) := by
  obtain ⟨_, _, _, h⟩ := takingTurns_step n
  exact ⟨h.busIn, inTurn_nextTask h⟩

theorem takingTurns_fair : Fair takingTurns := fun n t ht => by
  cases t with
  | cmd =>
    cases n with
    | zero => exact ⟨0, Nat.le_refl 0, rfl, _, rfl⟩
    | succ n =>
      obtain ⟨_, _, _, h⟩ := takingTurns_step n
      have := mem_liveTasks.1 ht
      simp [State.cmdReady, h.cmdIn, takePacket, h.busy] at this
  | dark =>
    have := takingTurns_chosen (2 * n)
    rw [if_pos (by omega)] at this
    exact ⟨2 * n + 1, by omega, this⟩
  | color =>
    have := takingTurns_chosen (2 * n + 1)
    rw [if_neg (by omega)] at this
    exact ⟨2 * n + 2, by omega, this⟩

theorem allLive_inv : Inv allLive where
  imageCanonical := Memory.powerOn_wf
  imageDescribed := Memory.powerOn_described
  imageComplete := Memory.powerOn_complete
  lastColor := List.mem_cons_self ..
  busySeq := by simp [allLive]
  seqLegal := show State.angleOf 0 allLive ≠ (91#16 : Word).toInt by decide
  capacity := fun n _ => Nat.zero_le n
  started := fun _ => rfl

theorem test_witness_FairRuns : IsRun takingTurns ∧ Fair takingTurns ∧ Inv (takingTurns 0) ∧
    (takingTurns 0).busy = true ∧ (takingTurns 0).darkRun = .running ∧ (takingTurns 0).colorRun = .running :=
  ⟨takingTurns_run, takingTurns_fair, allLive_inv, rfl, rfl, rfl⟩

end Sys2Proof.Tests
end

section
/-! PROOFS. SETCH of a channel outside 0..15. Such a command has no effect between its acceptance and its end, so what
it leaves is what acceptance and end alone leave. -/

namespace Sys2Proof.Machine

/-! ### A command without an effect: its acceptance and its end alone -/

theorem completed_accept_finish (i : Instr) (s : State) : Completed i [] s (s.accept i).finish where
  trace := by simp [commandItems]
  quiescent := ⟨finish_busy _, finish_seq _⟩

theorem sameRegisters_accept_finish (i : Instr) (s : State) : SameRegisters s (s.accept i).finish where
  angle := by simp
  lastColor := by simp
  sleep := by simp

theorem sameWatchers_accept_finish (i : Instr) (s : State) : SameWatchers s (s.accept i).finish where
  watch := by simp
  darkRun := by simp
  colorRun := by simp

/-! ### SETCH -/

/-- SETCH of a channel outside 0..15 is its acceptance and its end alone (40_pwm_driver R139). -/
theorem exec_setch_outside {s : State} (h : s.busy = false) {ch : Word} (hch : ch.toInt < 0 ∨ ch.toInt > 15)
    (on off : Word) : exec (.setch ch on off) s = .next (s.accept (.setch ch on off)).finish := by
  rw [exec_accepts ⟨_, rfl⟩ h, firstSegment, setChannel_outside hch]

/-- Settles O23: SETCH of such a channel is its acceptance and its end alone, which touch only BUSY, SEQ and the trace. -/
theorem setchOfNoChannelDoesNothing : Obligations.SetchOfNoChannelDoesNothing := by
  intro ch on off s hbusy hch
  refine ⟨_, exec_setch_outside hbusy hch on off, completed_accept_finish _ s, sameRegisters_accept_finish _ s,
    sameWatchers_accept_finish _ s, ?env, ?image⟩
  case env => rw [finish_env, accept_env]
  case image => rw [finish_image, accept_image]

end Sys2Proof.Machine
end

section
/-! PROOFS. RUN of a motor outside 1..4. Driving such a motor leaves the accepted state as it is, so the command is one
without an effect, and the laws of its acceptance and its end apply. -/

namespace Sys2Proof.Machine

/-! ### RUN -/

/-- RUN of a motor outside 1..4 is its acceptance and its end alone (42_drive R182). -/
theorem exec_run_outside {s : State} (h : s.busy = false) {m : Word} (hm : m.toInt < 1 ∨ m.toInt > 4) (speed : Word) :
    exec (.run m speed) s = .next (s.accept (.run m speed)).finish := by
  rw [exec_accepts ⟨_, rfl⟩ h, firstSegment, driveMotor_outside hm]

/-- Settles O39: RUN of such a motor is its acceptance and its end alone, which touch only BUSY, SEQ and the trace. -/
theorem runOfNoMotorDoesNothing : Obligations.RunOfNoMotorDoesNothing := by
  intro m speed s hbusy hm
  refine ⟨_, exec_run_outside hbusy hm speed, completed_accept_finish _ s, sameRegisters_accept_finish _ s,
    sameWatchers_accept_finish _ s, ?env, ?image⟩
  case env => rw [finish_env, accept_env]
  case image => rw [finish_image, accept_image]

end Sys2Proof.Machine
end

section
/-! PROOFS. WDARK and WCOLOR. Each is a command of one segment whose effect is on the watchers alone: it puts nothing on
the trace and leaves the registers, the outside and the image as they are. -/

namespace Sys2Proof.Machine

/-! ### A command whose effect puts nothing on the trace, or leaves the registers alone -/

/-- A one-segment effect `u` that adds nothing to the trace completes its command with no items of its own. -/
theorem completed_finish_of_trace {i : Instr} {s u : State} (h : u.trace = (s.accept i).trace) :
    Completed i [] s u.finish where
  trace := by rw [finish_trace, h, ← finish_trace]; exact (completed_accept_finish i s).trace
  quiescent := ⟨finish_busy u, finish_seq u⟩

/-- The end of a command leaves the registers as its effect left them. -/
theorem SameRegisters.finish {s u : State} (h : SameRegisters s u) : SameRegisters s u.finish where
  angle := (finish_angle u).trans h.angle
  lastColor := (finish_lastColor u).trans h.lastColor
  sleep := (finish_sleep u).trans h.sleep

/-! ### WDARK -/

@[simp] theorem accept_wcount (i : Instr) (s : State) : (s.accept i).wcount = s.wcount :=
  congrArg List.length (accept_watch i s)

theorem hasRoom_of_capacity {n : Nat} (h : Config.nwatch = some n) (wcount : Nat) :
    hasRoom wcount = decide (wcount < n) := by
  simp only [hasRoom, h]

theorem hasRoom_of_unbounded (h : Config.nwatch = none) (wcount : Nat) : hasRoom wcount = true := by
  simp only [hasRoom, h]

theorem registerDark_watch_of_capacity {n : Nat} (h : Config.nwatch = some n) (thr : Word) (s : State) :
    (s.registerDark thr).watch = if s.wcount < n then s.watch ++ [⟨thr, false⟩] else s.watch := by
  simp only [registerDark_watch, hasRoom_of_capacity h, decide_eq_true_eq]

theorem registerDark_watch_of_unbounded (h : Config.nwatch = none) (thr : Word) (s : State) :
    (s.registerDark thr).watch = s.watch ++ [⟨thr, false⟩] := by
  simp only [registerDark_watch, hasRoom_of_unbounded h, if_true]

/-- The first segment of WDARK registers the threshold and ends the command (43_watchers R200). -/
theorem exec_wdark_accepts {s : State} (h : s.busy = false) (thr : Word) :
    exec (.wdark thr) s = .next ((s.accept (.wdark thr)).registerDark thr).finish :=
  exec_accepts ⟨_, rfl⟩ h

theorem sameRegisters_accept_registerDark (i : Instr) (thr : Word) (s : State) :
    SameRegisters s ((s.accept i).registerDark thr) where
  angle := by rw [registerDark_angle, accept_angle]
  lastColor := by rw [registerDark_lastColor, accept_lastColor]
  sleep := by rw [registerDark_sleep, accept_sleep]

/-- Settles O42: of what WDARK does, only `registerDark` touches the watchers, and whether it appends its entry is decided
by the capacity of the table. -/
theorem wdarkRegistersItsThreshold : Obligations.WdarkRegistersItsThreshold := by
  intro thr s hbusy
  refine ⟨_, exec_wdark_accepts hbusy thr, completed_finish_of_trace (registerDark_trace _ _), ?darkRun, ?watch,
    (sameRegisters_accept_registerDark _ thr s).finish, ?colorRun, ?env, ?image⟩
  case darkRun => rw [finish_darkRun, registerDark_darkRun]
  case watch =>
    split
    next n hn => rw [finish_watch, registerDark_watch_of_capacity hn, accept_watch, accept_wcount]
    next hn => rw [finish_watch, registerDark_watch_of_unbounded hn, accept_watch]
  case colorRun => rw [finish_colorRun, registerDark_colorRun, accept_colorRun]
  case env => rw [finish_env, registerDark_env, accept_env]
  case image => rw [finish_image, registerDark_image, accept_image]

/-! ### WCOLOR -/

/-- The first segment of WCOLOR sets `COLOR_RUN` and ends the command (43_watchers R202). -/
theorem exec_wcolor_accepts {s : State} (h : s.busy = false) :
    exec .wcolor s = .next ({ s.accept .wcolor with colorRun := .running } : State).finish :=
  exec_accepts ⟨_, rfl⟩ h

theorem sameRegisters_accept_startColor (i : Instr) (s : State) :
    SameRegisters s { s.accept i with colorRun := .running } where
  angle := accept_angle i s
  lastColor := accept_lastColor i s
  sleep := accept_sleep i s

/-- Settles O43: between its acceptance and its end, WCOLOR changes one field, `COLOR_RUN`. -/
theorem wcolorStartsTheColourWatcher : Obligations.WcolorStartsTheColourWatcher := by
  intro s hbusy
  refine ⟨_, exec_wcolor_accepts hbusy, completed_finish_of_trace rfl, ?colorRun,
    (sameRegisters_accept_startColor _ s).finish, ?watch, ?darkRun, ?env, ?image⟩
  case colorRun => rw [finish_colorRun]
  case watch => rw [finish_watch, accept_watch]
  case darkRun => rw [finish_darkRun, accept_darkRun]
  case env => rw [finish_env, accept_env]
  case image => rw [finish_image, accept_image]

end Sys2Proof.Machine
end

section
/-! PROOFS. The encoder and the decoder are inverse to each other. One lemma says which command rows there are
(`commandRow_eq_some`), one that a row is missing exactly where no count is legal (`commandRow_isSome`), one what a packet
decodes to (`decode_packet`); both directions of the round trip are read off these. -/

namespace Sys2Proof

/-! ### The operand words of a command row -/

theorem noOperand_eq_some {i j : Instr} {ws : List Word} : noOperand i ws = some j ↔ ws = [] ∧ j = i := by
  rcases ws with _ | ⟨a, ws⟩ <;> simp [noOperand, @eq_comm _ j]

theorem oneOperand_eq_some {f : Word → Instr} {j : Instr} {ws : List Word} :
    oneOperand f ws = some j ↔ ∃ a, ws = [a] ∧ j = f a := by
  rcases ws with _ | ⟨a, _ | ⟨b, ws⟩⟩ <;> simp [oneOperand, @eq_comm _ j]

theorem twoOperands_eq_some {f : Word → Word → Instr} {j : Instr} {ws : List Word} :
    twoOperands f ws = some j ↔ ∃ a b, ws = [a, b] ∧ j = f a b := by
  rcases ws with _ | ⟨a, _ | ⟨b, _ | ⟨c, ws⟩⟩⟩ <;> simp [twoOperands, @eq_comm _ j]

theorem threeOperands_eq_some {f : Word → Word → Word → Instr} {j : Instr} {ws : List Word} :
    threeOperands f ws = some j ↔ ∃ a b c, ws = [a, b, c] ∧ j = f a b c := by
  rcases ws with _ | ⟨a, _ | ⟨b, _ | ⟨c, _ | ⟨d, ws⟩⟩⟩⟩ <;> simp [threeOperands, @eq_comm _ j]

theorem moveOperands_eq_some {j : Instr} {ws : List Word} :
    moveOperands ws = some j ↔ ∃ dur targets, ws = dur :: targets ∧ targets.length ≤ 8 ∧ j = .movesync dur targets := by
  rcases ws with _ | ⟨dur, targets⟩ <;> simp [moveOperands, @eq_comm _ j]

/-- The command rows (30_encoding R96): the opcode, the operand words and the instruction of each. -/
theorem commandRow_eq_some {op : Byte} {ws : List Word} {i : Instr} (h : commandRow op ws = some i) :
    (op = 0x01#8 ∧ ws = [] ∧ i = .init) ∨
    (op = 0x02#8 ∧ ∃ ch on off, ws = [ch, on, off] ∧ i = .setch ch on off) ∨
    (op = 0x03#8 ∧ ∃ s deg, ws = [s, deg] ∧ i = .setangle s deg) ∨
    (op = 0x04#8 ∧ ∃ s target delay, ws = [s, target, delay] ∧ i = .sweep s target delay) ∨
    (op = 0x05#8 ∧ ∃ dur targets, ws = dur :: targets ∧ targets.length ≤ 8 ∧ i = .movesync dur targets) ∨
    (op = 0x06#8 ∧ ∃ m speed, ws = [m, speed] ∧ i = .run m speed) ∨
    (op = 0x07#8 ∧ ∃ max left right, ws = [max, left, right] ∧ i = .lfstep max left right) ∨
    (op = 0x08#8 ∧ ∃ thr, ws = [thr] ∧ i = .wdark thr) ∨
    (op = 0x09#8 ∧ ws = [] ∧ i = .wcolor) := by
  simp only [← noOperand_eq_some, ← oneOperand_eq_some, ← twoOperands_eq_some, ← threeOperands_eq_some,
    ← moveOperands_eq_some]
  unfold commandRow at h
  split_ifs at h <;> simp_all

/-- A row is there for exactly the legal counts (30_encoding R96, R98). -/
theorem commandRow_isSome (op : Byte) (ws : List Word) : (commandRow op ws).isSome = legalCount op ws.length := by
  have h0 (i : Instr) : (noOperand i ws).isSome = (ws.length == 0) := by
    rcases ws with _ | ⟨a, ws⟩ <;> rfl
  have h1 (f : Word → Instr) : (oneOperand f ws).isSome = (ws.length == 1) := by
    rcases ws with _ | ⟨a, _ | ⟨b, ws⟩⟩ <;> rfl
  have h2 (f : Word → Word → Instr) : (twoOperands f ws).isSome = (ws.length == 2) := by
    rcases ws with _ | ⟨a, _ | ⟨b, _ | ⟨c, ws⟩⟩⟩ <;> rfl
  have h3 (f : Word → Word → Word → Instr) : (threeOperands f ws).isSome = (ws.length == 3) := by
    rcases ws with _ | ⟨a, _ | ⟨b, _ | ⟨c, _ | ⟨d, ws⟩⟩⟩⟩ <;> rfl
  have hm : (moveOperands ws).isSome = (decide (1 ≤ ws.length) && decide (ws.length ≤ 9)) := by
    rcases ws with _ | ⟨dur, targets⟩
    · rfl
    · by_cases h : targets.length ≤ 8 <;> simp [moveOperands, h] <;> omega
  unfold commandRow legalCount
  split_ifs
  exacts [h0 _, h3 _, h2 _, h3 _, hm, h2 _, h3 _, h1 _, h0 _, rfl]

/-! ### Packets -/

/-- An opcode and operand words that no row has are RESERVED (30_encoding R98). -/
theorem decodeCommand_reserved {op : Byte} {ws : List Word} (h : legalCount op ws.length = false) :
    decodeCommand op ws = .reserved op ws := by
  rw [← commandRow_isSome, Option.isSome_eq_false_iff, Option.isNone_iff_eq_none] at h
  rw [decodeCommand, h]
  rfl

/-- What a packet as long as its header counts decodes to (30_encoding R91). -/
theorem decode_packet {w0 : Word} {ws : List Word} (h : ws.length = headerCount w0) :
    decode (.packet (w0 :: ws)) = .ok (decodeCommand (headerOp w0) ws) := by
  simp only [decode, decodePacket, h, if_true]

/-- A packet whose header was written for its operand words decodes by its opcode (30_encoding R91). -/
theorem decode_packet_header (op : Byte) {ws : List Word} (h : ws.length ≤ 255) :
    decode (.packet (header op ws.length :: ws)) = .ok (decodeCommand op ws) := by
  rw [decode_packet (headerCount_header op h).symm, headerOp_header]

/-- A packet that decodes is as long as its header counts (30_encoding R91). -/
theorem decode_packet_ok {words : List Word} {i : Instr} (h : decode (.packet words) = .ok i) :
    ∃ w0 ws, words = w0 :: ws ∧ ws.length = headerCount w0 ∧ i = decodeCommand (headerOp w0) ws := by
  simp only [decode] at h
  unfold decodePacket at h
  split at h
  next => cases h
  next w0 ws =>
    split at h
    next hl =>
      injection h with h
      exact ⟨w0, ws, rfl, hl, h.symm⟩
    next => cases h

/-- A command row is well formed, and its encoding is its opcode's header before its operand words (30_encoding R96). -/
theorem encode_of_commandRow {op : Byte} {ws : List Word} {i : Instr} (h : commandRow op ws = some i) :
    WellFormed i ∧ encode i = .packet (header op ws.length :: ws) := by
  rcases commandRow_eq_some h with ⟨rfl, rfl, rfl⟩ | ⟨rfl, _, _, _, rfl, rfl⟩ | ⟨rfl, _, _, rfl, rfl⟩ |
    ⟨rfl, _, _, _, rfl, rfl⟩ | ⟨rfl, dur, targets, rfl, ht, rfl⟩ | ⟨rfl, _, _, rfl, rfl⟩ | ⟨rfl, _, _, _, rfl, rfl⟩ |
    ⟨rfl, _, rfl, rfl⟩ | ⟨rfl, rfl, rfl⟩
  case inr.inr.inr.inr.inl => exact ⟨decide_eq_true ht, rfl⟩
  all_goals exact ⟨rfl, rfl⟩

/-- The instruction of an opcode and at most 255 operand words is well formed and encodes to them (30_encoding R91, R98). -/
theorem encode_decodeCommand (op : Byte) {ws : List Word} (hl : ws.length ≤ 255) :
    WellFormed (decodeCommand op ws) ∧ encode (decodeCommand op ws) = .packet (header op ws.length :: ws) := by
  cases hrow : commandRow op ws with
  | some i =>
    rw [decodeCommand, hrow]
    exact encode_of_commandRow hrow
  | none =>
    have hc : legalCount op ws.length = false := by rw [← commandRow_isSome, hrow]; rfl
    rw [decodeCommand_reserved hc]
    exact ⟨by simp [WellFormed, wellFormed, hl, hc], rfl⟩

/-! ### The round trips -/

/-- Settles O1: a command's packet has a fixed header or one written for its operand words, and a payload starts with its
register's own offset. -/
theorem decodeOfEncodeIsTheInstruction : Obligations.DecodeOfEncodeIsTheInstruction := by
  intro i hi
  cases i with
  | init => rfl
  | setch ch on off => rfl
  | setangle s deg => rfl
  | sweep s target delay => rfl
  | movesync dur targets =>
    have ht : targets.length ≤ 8 := of_decide_eq_true hi
    have hd : decodeCommand 0x05#8 (dur :: targets) = .movesync dur targets := by
      simp [decodeCommand, commandRow, moveOperands, ht]
    exact (decode_packet_header 0x05#8 (ws := dur :: targets) (by rw [List.length_cons]; omega)).trans (by rw [hd])
  | run m speed => rfl
  | lfstep max left right => rfl
  | wdark thr => rfl
  | wcolor => rfl
  | reserved op ws =>
    have ⟨hl, hc⟩ : ws.length ≤ 255 ∧ legalCount op ws.length = false := by simpa [WellFormed, wellFormed] using hi
    exact (decode_packet_header op hl).trans (by rw [decodeCommand_reserved hc])
  | chwrite ch p q r b => simp only [encode, decode, decodePayload, Machine.channelAt_chreg]
  | regwrite reg v => simp only [encode, decode, decodePayload, Machine.ctrlAt_ctrlOffset]

/-- A packet that decodes holds a well-formed instruction, and is its encoding. -/
theorem encode_of_decode_packet {words : List Word} {i : Instr} (h : decode (.packet words) = .ok i) :
    WellFormed i ∧ encode i = .packet words := by
  obtain ⟨w0, ws, rfl, hl, rfl⟩ := decode_packet_ok h
  have he := encode_decodeCommand (headerOp w0) (hl.trans_le (headerCount_le w0))
  rwa [hl, header_fields] at he

/-- Settles O2: a packet's header is its two fields, and a payload is one of two shapes. -/
theorem encodeOfDecodeIsTheWire : Obligations.EncodeOfDecodeIsTheWire := by
  intro w i h
  cases w with
  | packet words => exact encode_of_decode_packet h
  | payload bytes =>
    rcases decodePayload_cases h with ⟨ch, p, q, r, b, rfl, rfl⟩ | ⟨reg, v, rfl, rfl⟩ <;> exact ⟨rfl, rfl⟩

/-- Settles O3: no row is there for the count. -/
theorem malformedPacketIsReserved : Obligations.MalformedPacketIsReserved := by
  intro w0 ws hl hc
  rw [decode_packet hl, decodeCommand_reserved hc]

/-- Settles O4: what is taken is as long as its header counts, so it decodes. -/
theorem everyWholePacketDecodes : Obligations.EveryWholePacketDecodes := by
  intro ws packet rest h
  obtain ⟨_, _, _, _, hws⟩ := takePacket_cases h
  obtain ⟨i, hi⟩ := Machine.decode_of_takePacket h
  exact ⟨hws, i, hi, (encode_of_decode_packet hi).1⟩

/-- Settles O5: each wire is a closed term, and the decoder runs on it. -/
theorem writtenOutWordsDecode : Obligations.WrittenOutWordsDecode := by
  unfold Obligations.WrittenOutWordsDecode
  decide

end Sys2Proof
end

section
/-! PROOFS. The arithmetic of the Servo Motion Engine on mathematical integers: the tick map by the sign of the pulse
width, rounding to the nearest integer, the frame positions of MOVESYNC and the degrees of SWEEP. -/

namespace Sys2Proof.Machine

/-! ### The tick map -/

theorem ticks_of_nonneg {deg : Int} (h : 0 ≤ 10 * deg + 600) : ticks deg = (10 * deg + 600) * 4096 / 20000 := by
  unfold ticks pulseUs
  rw [Int.tdiv_eq_ediv_of_nonneg (by omega)]

theorem ticks_of_neg {deg : Int} (h : 10 * deg + 600 < 0) : ticks deg = -(-(10 * deg + 600) * 4096 / 20000) := by
  unfold ticks pulseUs
  rw [← Int.tdiv_eq_ediv_of_nonneg (by omega), ← Int.neg_tdiv]
  congr 1
  omega

/-- The tick map by the sign of the pulse width: rounding toward zero is rounding down above zero and up below it
(41_servo R151). -/
theorem ticks_cases (deg : Int) :
    (0 ≤ 10 * deg + 600 ∧ ticks deg = (10 * deg + 600) * 4096 / 20000) ∨
      (10 * deg + 600 < 0 ∧ ticks deg = -(-(10 * deg + 600) * 4096 / 20000)) := by
  rcases Int.lt_or_le (10 * deg + 600) 0 with h | h
  · exact .inr ⟨h, ticks_of_neg h⟩
  · exact .inl ⟨h, ticks_of_nonneg h⟩

/-- Settles O25: by the sign of the pulse width, the tick map is a quotient rounded down or the negative of one. -/
theorem ticksRoundTowardZero : Obligations.TicksRoundTowardZero := by
  refine ⟨?above, ?below, ?increasing, ?range, by decide, by decide, by decide⟩
  case above => intro deg h; have := ticks_of_nonneg h; omega
  case below => intro deg h; have := ticks_of_neg h; omega
  case increasing => intro a b h; have := ticks_cases a; have := ticks_cases b; omega
  case range => intro deg; have := ticks_cases deg; omega

/-! ### Rounding to the nearest integer -/

/-- Rounding keeps the order of the numerators. -/
theorem roundHalfUp_mono {a b : Int} (h : a ≤ b) (den : Nat) : roundHalfUp a den ≤ roundHalfUp b den := by
  unfold roundHalfUp
  rcases Nat.eq_zero_or_pos den with rfl | hd
  · simp
  · exact Int.ediv_le_ediv (by omega) (by omega)

/-- A whole number is its own rounding. -/
theorem roundHalfUp_whole (a : Int) {den : Nat} (h : 1 ≤ den) : roundHalfUp (a * den) den = a := by
  have e : 2 * (a * den) + (den : Int) = (den : Int) + a * (2 * den) := by ring
  rw [roundHalfUp, e, Int.add_mul_ediv_right _ _ (by omega), Int.ediv_eq_zero_of_lt (by omega) (by omega), Int.zero_add]

/-- Rounding is to within half a unit, halves up (00_scope R14). -/
theorem roundHalfUp_bounds (a : Int) {den : Nat} (h : 1 ≤ den) :
    2 * a - den < 2 * den * roundHalfUp a den ∧ 2 * den * roundHalfUp a den ≤ 2 * a + den := by
  have h1 := Int.mul_ediv_self_le (x := 2 * a + den) (k := 2 * den) (by omega)
  have h2 := Int.lt_mul_ediv_self_add (x := 2 * a + den) (k := 2 * den) (by omega)
  unfold roundHalfUp
  omega

/-! ### Frame positions -/

@[simp] theorem framePosition_first (start delta : Int) {steps : Nat} (h : 1 ≤ steps) :
    framePosition start delta 0 steps = start := by
  simpa [framePosition] using roundHalfUp_whole start h

@[simp] theorem framePosition_still (start : Int) (k : Nat) {steps : Nat} (h : 1 ≤ steps) :
    framePosition start 0 k steps = start := by
  simpa [framePosition] using roundHalfUp_whole start h

/-- The last frame is at the target (41_servo R166). -/
theorem framePosition_last (start delta : Int) {steps : Nat} (h : 1 ≤ steps) :
    framePosition start delta steps steps = start + delta := by
  rw [framePosition, Int.mul_comm (steps : Int) delta, ← Int.add_mul, roundHalfUp_whole _ h]

/-- A lane that rises is never below its start, nor above its target. -/
theorem framePosition_rising {start delta : Int} {k steps : Nat} (h : 1 ≤ steps) (hk : k ≤ steps) (hd : 0 ≤ delta) :
    start ≤ framePosition start delta k steps ∧ framePosition start delta k steps ≤ start + delta := by
  have hk' : (k : Int) * delta ≤ steps * delta := Int.mul_le_mul_of_nonneg_right (by omega) hd
  have h0 : 0 ≤ (k : Int) * delta := Int.mul_nonneg (by omega) hd
  constructor
  · calc start = framePosition start 0 k steps := (framePosition_still start k h).symm
      _ ≤ framePosition start delta k steps := roundHalfUp_mono (by omega) steps
  · calc framePosition start delta k steps ≤ framePosition start delta steps steps := roundHalfUp_mono (by omega) steps
      _ = start + delta := framePosition_last start delta h

/-- A lane that falls is never above its start, nor below its target. -/
theorem framePosition_falling {start delta : Int} {k steps : Nat} (h : 1 ≤ steps) (hk : k ≤ steps) (hd : delta ≤ 0) :
    start + delta ≤ framePosition start delta k steps ∧ framePosition start delta k steps ≤ start := by
  have hk' : (steps : Int) * delta ≤ k * delta := Int.mul_le_mul_of_nonpos_right (by omega) hd
  have h0 : (k : Int) * delta ≤ 0 := Int.mul_nonpos_of_nonneg_of_nonpos (by omega) hd
  constructor
  · calc start + delta = framePosition start delta steps steps := (framePosition_last start delta h).symm
      _ ≤ framePosition start delta k steps := roundHalfUp_mono (by omega) steps
  · calc framePosition start delta k steps ≤ framePosition start 0 k steps := roundHalfUp_mono (by omega) steps
      _ = start := framePosition_still start k h

/-- A frame position lies in every interval that holds the start and the target. -/
theorem framePosition_mem {start delta lo hi : Int} {k steps : Nat} (h : 1 ≤ steps) (hk : k ≤ steps)
    (hs : lo ≤ start ∧ start ≤ hi) (ht : lo ≤ start + delta ∧ start + delta ≤ hi) :
    lo ≤ framePosition start delta k steps ∧ framePosition start delta k steps ≤ hi := by
  rcases Int.le_total 0 delta with hd | hd
  · have := framePosition_rising (start := start) h hk hd; omega
  · have := framePosition_falling (start := start) h hk hd; omega

/-- Settles O37: rounding is monotone and leaves whole numbers alone, and start and target are whole. -/
theorem framePositionsLieBetween : Obligations.FramePositionsLieBetween := by
  intro start delta k steps h hk
  refine ⟨roundHalfUp_bounds _ h, framePosition_rising h hk, framePosition_falling h hk, ?last⟩
  case last => rintro rfl; exact framePosition_last start delta h

/-! ### The degrees of SWEEP -/

/-- A degree nearer the target stays between where it started and the target (41_servo R155). -/
theorem sweepNext_mem {a target lo hi : Int} (h : a ≠ target) (ha : lo ≤ a ∧ a ≤ hi) (ht : lo ≤ target ∧ target ≤ hi) :
    lo ≤ sweepNext a target ∧ sweepNext a target ≤ hi := by
  unfold sweepNext; split <;> omega

theorem toInt_bounds (w : Word) : -32768 ≤ w.toInt ∧ w.toInt ≤ 32767 := by
  have := BitVec.toInt_lt (x := w)
  have := BitVec.le_toInt (x := w)
  simp at *
  omega

end Sys2Proof.Machine
end

section
/-! PROOFS. What every segment leaves alone, once: the chosen task's wake (`Woken`), the registers of the block
(`MotionFrame`, `OwnWrites`), the trace (`Extends`) and the image (`firstSegment_keeps`, `resume_keeps`). -/

namespace Sys2Proof.Machine

@[simp] theorem Sleeps.set_cmd (z : Sleeps) (w : Wake) : z.set .cmd w = { z with cmd := w } := rfl

@[simp] theorem Sleeps.get_set_self (z : Sleeps) (t : Task) (w : Wake) : (z.set t w).get t = w := by cases t <;> rfl

theorem Sleeps.get_set_other (z : Sleeps) {t u : Task} (h : u ≠ t) (w : Wake) : (z.set t w).get u = z.get u :=
  match t, u, h with
  | .cmd, .dark, _ | .cmd, .color, _ | .dark, .cmd, _ | .dark, .color, _ | .color, .cmd, _ | .color, .dark, _ => rfl
  | .cmd, .cmd, h | .dark, .dark, h | .color, .color, h => absurd rfl h

/-! ### The wake of the chosen task -/

/-- The block given to a task: its sleep is over, the time is not before the end of its pause, the scheduler's feeds have
gone on, and nothing else has changed (60_exceptions R241, R243). -/
structure Woken (t : Task) (s w : State) : Prop where
  angle : w.angle = s.angle
  watch : w.watch = s.watch
  darkRun : w.darkRun = s.darkRun
  colorRun : w.colorRun = s.colorRun
  lastColor : w.lastColor = s.lastColor
  busy : w.busy = s.busy
  seq : w.seq = s.seq
  sleep : w.sleep = s.sleep.set t .awake
  image : w.image = s.image
  trace : w.trace = s.trace
  env : w.env = { s.env with
    now := w.env.now, latenessIn := s.env.latenessIn.rest, choiceIn := w.env.choiceIn }
  time : s.env.now ≤ w.env.now ∧ (s.sleep.get t).time ≤ w.env.now

theorem woken_wakeUp (t : Task) (s : State) : Woken t s (s.wakeUp t) where
  angle := wakeUp_angle t s
  watch := wakeUp_watch t s
  darkRun := wakeUp_darkRun t s
  colorRun := wakeUp_colorRun t s
  lastColor := wakeUp_lastColor t s
  busy := wakeUp_busy t s
  seq := wakeUp_seq t s
  sleep := wakeUp_sleep t s
  image := wakeUp_image t s
  trace := wakeUp_trace t s
  env := rfl
  time := by rw [wakeUp_env]; dsimp only; omega

/-- The chosen task is woken after the choice. -/
theorem woken_of_nextTask {s s' : State} {t : Task} (h : s.nextTask = some (t, s')) : Woken t s (s'.wakeUp t) := by
  rcases (nextTask_cases h).2 with rfl | rfl
  · exact woken_wakeUp t s'
  · have hw := woken_wakeUp t { s with env := { s.env with choiceIn := s.env.choiceIn.rest } }
    exact { hw with env := rfl }

/-- The step of the chosen task runs its segment on the woken state (60_exceptions R242). -/
theorem step_of_nextTask {s s' : State} {t : Task} (hb : s.env.busIn = []) (h : s.nextTask = some (t, s')) :
    step s = (s'.wakeUp t).runTask t := by
  simp only [step, hb, h]

/-! ### The registers of the block -/

theorem SameWatchers.refl (s : State) : SameWatchers s s := ⟨rfl, rfl, rfl⟩

theorem SameWatchers.trans {s t u : State} (h₁ : SameWatchers s t) (h₂ : SameWatchers t u) : SameWatchers s u :=
  ⟨h₂.watch.trans h₁.watch, h₂.darkRun.trans h₁.darkRun, h₂.colorRun.trans h₁.colorRun⟩

theorem SameRegisters.trans {s t u : State} (h₁ : SameRegisters s t) (h₂ : SameRegisters t u) : SameRegisters s u :=
  ⟨h₂.angle.trans h₁.angle, h₂.lastColor.trans h₁.lastColor, h₂.sleep.trans h₁.sleep⟩

theorem sameWatchers_accept (i : Instr) (s : State) : SameWatchers s (s.accept i) :=
  ⟨accept_watch i s, accept_darkRun i s, accept_colorRun i s⟩

theorem sameRegisters_accept (i : Instr) (s : State) : SameRegisters s (s.accept i) :=
  ⟨accept_angle i s, accept_lastColor i s, accept_sleep i s⟩

theorem sameWatchers_finish (s : State) : SameWatchers s s.finish :=
  ⟨finish_watch s, finish_darkRun s, finish_colorRun s⟩

theorem Woken.sameWatchers {t : Task} {s w : State} (h : Woken t s w) : SameWatchers s w :=
  ⟨h.watch, h.darkRun, h.colorRun⟩

/-- What a segment of SWEEP or MOVESYNC leaves alone: all but the angles, BUSY and SEQ, the sleep of CMD, the image and the
trace. -/
structure MotionFrame (s t : State) : Prop where
  watchers : SameWatchers s t
  lastColor : t.lastColor = s.lastColor
  env : t.env = s.env
  sleep : t.sleep = { s.sleep with cmd := t.sleep.cmd }

theorem finish_motionFrame (s : State) : MotionFrame s s.finish where
  watchers := sameWatchers_finish s
  lastColor := finish_lastColor s
  env := finish_env s
  sleep := by rw [finish_sleep]

theorem sweepSegment_motionFrame (i : Servo) (target delay : Word) (s : State) :
    MotionFrame s (s.sweepSegment i target delay) := by
  rcases sweepSegment_cases i target delay s with ⟨_, e⟩ | ⟨_, p, rfl, ⟨_, e⟩ | ⟨_, e⟩⟩ <;> rw [e]
  · exact finish_motionFrame s
  · exact ⟨⟨by simp, by simp, by simp⟩, by simp, by simp, by simp⟩
  · exact ⟨⟨by simp, by simp, by simp⟩, by simp, by simp, by simp⟩

theorem snapLanes_finish_motionFrame (lanes : List Lane) (s : State) : MotionFrame s (s.snapLanes lanes).finish :=
  ⟨⟨by simp, by simp, by simp⟩, by simp, by simp, by simp⟩

theorem moveSegment_motionFrame (m : Move) (s : State) : MotionFrame s (s.moveSegment m) := by
  rcases moveSegment_cases m s with ⟨_, e⟩ | ⟨_, e⟩ <;> rw [e]
  · exact ⟨⟨by simp, by simp, by simp⟩, by simp, by simp, by simp⟩
  · exact snapLanes_finish_motionFrame m.lanes s

theorem moveStart_motionFrame (dur : Int) (targets : List Word) (s : State) : MotionFrame s (s.moveStart dur targets) := by
  rcases moveStart_cases dur targets s with ⟨_, e⟩ | ⟨_, _, e⟩ <;> rw [e]
  · exact snapLanes_finish_motionFrame _ s
  · exact moveSegment_motionFrame _ s

theorem resume_motionFrame (s : State) : MotionFrame s s.resume := by
  unfold State.resume
  split
  · exact finish_motionFrame s
  · exact sweepSegment_motionFrame _ _ _ s
  · exact moveSegment_motionFrame _ s

/-- What the first segment of an instruction may write of the block's registers and of the outside (10_state R20, R23). -/
structure OwnWrites (i : Instr) (s t : State) : Prop where
  angle : (∀ n target delay, i ≠ .sweep n target delay) → (∀ dur targets, i ≠ .movesync dur targets) → t.angle = s.angle
  dark : (∀ thr, i ≠ .wdark thr) → t.watch = s.watch ∧ t.darkRun = s.darkRun
  color : i ≠ .wcolor → t.colorRun = s.colorRun
  lastColor : t.lastColor = s.lastColor
  env : i ≠ .init → t.env = s.env
  feeds : t.env = { s.env with now := t.env.now, modeIn := t.env.modeIn, latenessIn := t.env.latenessIn }
  time : s.env.now ≤ t.env.now
  sleep : t.sleep = { s.sleep with cmd := t.sleep.cmd }

theorem MotionFrame.ownWrites {s t : State} (h : MotionFrame s t) {i : Instr}
    (hi : (∃ n target delay, i = .sweep n target delay) ∨ ∃ dur targets, i = .movesync dur targets) : OwnWrites i s t where
  angle hs hm := by
    rcases hi with ⟨_, _, _, e⟩ | ⟨_, _, e⟩
    · exact absurd e (hs _ _ _)
    · exact absurd e (hm _ _)
  dark _ := ⟨h.watchers.watch, h.watchers.darkRun⟩
  color _ := h.watchers.colorRun
  lastColor := h.lastColor
  env _ := h.env
  feeds := by rw [h.env]
  time := by rw [h.env]
  sleep := h.sleep

/-- An effect that leaves the registers, the watchers and the outside alone writes nothing of an instruction's own. -/
theorem ownWrites_of_same {s t : State} (i : Instr) (hr : SameRegisters s t) (hw : SameWatchers s t)
    (he : t.env = s.env) : OwnWrites i s t where
  angle _ _ := hr.angle
  dark _ := ⟨hw.watch, hw.darkRun⟩
  color _ := hw.colorRun
  lastColor := hr.lastColor
  env _ := he
  feeds := by rw [he]
  time := by rw [he]
  sleep := by rw [hr.sleep]

/-- SWEEP's first segment is the named servo's, or the end alone for no servo (41_servo R154, R155). -/
theorem firstSegment_sweep_cases (n target delay : Word) (s : State) :
    (∃ i, servoOperand n.toInt = some i ∧ firstSegment (.sweep n target delay) s = s.sweepSegment i target delay) ∨
      (servoOperand n.toInt = none ∧ firstSegment (.sweep n target delay) s = s.finish) := by
  rw [firstSegment]
  cases h : servoOperand n.toInt with
  | some i => exact .inl ⟨i, rfl, rfl⟩
  | none => exact .inr ⟨rfl, rfl⟩

/-- MOVESYNC's first segment is its start, or the end alone for more targets than servos (41_servo R160, R173). -/
theorem firstSegment_movesync_cases (dur : Word) (targets : List Word) (s : State) :
    (targets.length ≤ 8 ∧ firstSegment (.movesync dur targets) s = s.moveStart dur.toInt targets) ∨
      (8 < targets.length ∧ firstSegment (.movesync dur targets) s = s.finish) := by
  rw [firstSegment]
  by_cases h : targets.length ≤ 8
  · exact .inl ⟨h, if_pos h⟩
  · exact .inr ⟨by omega, if_neg h⟩

theorem firstSegment_ownWrites (i : Instr) (s : State) : OwnWrites i s (firstSegment i s) := by
  cases i with
  | init =>
    constructor
    case time => simp only [firstSegment, finish_env, initialize_env]; omega
    all_goals simp [firstSegment]
  | sweep n target delay =>
    refine MotionFrame.ownWrites ?_ (.inl ⟨_, _, _, rfl⟩)
    rcases firstSegment_sweep_cases n target delay s with ⟨i, _, e⟩ | ⟨_, e⟩ <;> rw [e]
    · exact sweepSegment_motionFrame i target delay s
    · exact finish_motionFrame s
  | movesync dur targets =>
    refine MotionFrame.ownWrites ?_ (.inr ⟨_, _, rfl⟩)
    rcases firstSegment_movesync_cases dur targets s with ⟨_, e⟩ | ⟨_, e⟩ <;> rw [e]
    · exact moveStart_motionFrame _ targets s
    · exact finish_motionFrame s
  | wdark | wcolor => constructor <;> simp [firstSegment]
  | setch | setangle | run | lfstep | reserved | chwrite | regwrite =>
    exact ownWrites_of_same _ ⟨by simp [firstSegment], by simp [firstSegment], by simp [firstSegment]⟩
      ⟨by simp [firstSegment], by simp [firstSegment], by simp [firstSegment]⟩ (by simp [firstSegment])

/-! ### The trace -/

/-- The trace has grown by items that each have a property. -/
def Extends (P : Item → Prop) (s t : State) : Prop := ∃ items, t.trace = s.trace ++ items ∧ ∀ it ∈ items, P it

theorem Extends.of_eq {P : Item → Prop} {s t : State} (h : t.trace = s.trace) : Extends P s t :=
  ⟨[], by rw [h, List.append_nil], fun _ h => by cases h⟩

theorem Extends.single {P : Item → Prop} {s t : State} {it : Item} (h : t.trace = s.trace ++ [it]) (hp : P it) :
    Extends P s t :=
  ⟨[it], h, fun _ h => List.mem_singleton.1 h ▸ hp⟩

theorem Extends.trans {P : Item → Prop} {s t u : State} (h1 : Extends P s t) (h2 : Extends P t u) : Extends P s u := by
  obtain ⟨l1, e1, p1⟩ := h1
  obtain ⟨l2, e2, p2⟩ := h2
  exact ⟨l1 ++ l2, by rw [e2, e1, List.append_assoc], fun it h => (List.mem_append.1 h).elim (p1 it) (p2 it)⟩

theorem Extends.mono {P Q : Item → Prop} {s t : State} (h : Extends P s t) (hPQ : ∀ it, P it → Q it) : Extends Q s t := by
  obtain ⟨items, e, p⟩ := h
  exact ⟨items, e, fun it hit => hPQ it (p it hit)⟩

theorem extends_foldl {P : Item → Prop} {α : Type} (f : State → α → State) (hf : ∀ s a, Extends P s (f s a)) (l : List α)
    (s : State) : Extends P s (l.foldl f s) := by
  induction l generalizing s with
  | nil => exact .of_eq rfl
  | cons a l ih => exact (hf s a).trans (ih _)

/-- What the items of a command have in common after its acceptance: each bus write is a payload to the controller, none is
an acceptance, none an event (30_encoding R101, 60_exceptions R233). -/
structure Item.Quiet (it : Item) : Prop where
  isPayload : it.isPayload
  notAccepted : it.isAccepted = false
  notEvent : it.isEvent = false

theorem channelItem_quiet (ch : Channel) (on off : Int) : (channelItem ch on off).Quiet :=
  ⟨⟨rfl, _, by simp only [decode, decodePayload, channelAt_chreg]; rfl⟩, rfl, rfl⟩

theorem ctrlItem_quiet (reg : CtrlReg) (v : Byte) : (ctrlItem reg v).Quiet :=
  ⟨⟨rfl, _, by simp only [decode, decodePayload, ctrlAt_ctrlOffset]; rfl⟩, rfl, rfl⟩

theorem finish_extends (s : State) : Extends Item.Quiet s s.finish := .single (finish_trace s) ⟨trivial, rfl, rfl⟩

theorem pause_extends (t : Task) (ms : Nat) (s : State) : Extends Item.Quiet s (s.pause t ms) :=
  .single (pause_trace t ms s) ⟨trivial, rfl, rfl⟩

theorem regWrite_extends (reg : CtrlReg) (v : Byte) (s : State) : Extends Item.Quiet s (s.regWrite reg v) :=
  .single (regWrite_trace reg v s) (ctrlItem_quiet reg v)

theorem setChannel_extends (ch on off : Int) (s : State) : Extends Item.Quiet s (s.setChannel ch on off) := by
  refine ⟨channelItems ch on off, setChannel_trace ch on off s, fun it hit => ?_⟩
  unfold channelItems at hit
  split at hit
  · exact List.mem_singleton.1 hit ▸ channelItem_quiet _ on off
  · cases hit

theorem driveServo_extends (n deg : Int) (s : State) : Extends Item.Quiet s (s.driveServo n deg) := by
  unfold State.driveServo
  split
  · exact setChannel_extends _ _ _ s
  · exact .of_eq rfl

theorem moveServo_extends (i : Servo) (a : Int) (s : State) : Extends Item.Quiet s (s.moveServo i a) :=
  (driveServo_extends _ _ s).trans (.of_eq (setAngleOf_trace ..))

theorem driveMotor_extends (m speed : Int) (s : State) : Extends Item.Quiet s (s.driveMotor m speed) := by
  unfold State.driveMotor
  split
  · split <;> exact (setChannel_extends _ _ _ s).trans (setChannel_extends _ _ _ _)
  · exact .of_eq rfl

theorem snapLanes_extends (lanes : List Lane) (s : State) : Extends Item.Quiet s (s.snapLanes lanes) := by
  unfold State.snapLanes
  refine extends_foldl _ (fun s l => ?_) lanes s
  exact moveServo_extends _ _ s

theorem frameLanes_extends (k steps : Nat) (lanes : List Lane) (s : State) :
    Extends Item.Quiet s (s.frameLanes k steps lanes) := by
  unfold State.frameLanes
  refine extends_foldl _ (fun s l => ?_) lanes s
  unfold State.frameLane
  split
  · exact .of_eq rfl
  · exact moveServo_extends _ _ s

theorem zeroChannels_extends (s : State) : Extends Item.Quiet s s.zeroChannels := by
  unfold State.zeroChannels
  exact extends_foldl _ (fun s _ => setChannel_extends _ _ _ s) channels s

theorem reapplyAngles_extends (s : State) : Extends Item.Quiet s s.reapplyAngles := by
  unfold State.reapplyAngles
  exact extends_foldl _ (fun s _ => driveServo_extends _ _ s) servos s

theorem init_extends (s : State) : Extends Item.Quiet s (firstSegment .init s) := by
  show Extends Item.Quiet s (s.readMode.initWith s.modeAnswer).finish
  unfold State.initWith
  have read : Extends Item.Quiet s s.readMode := .single (readMode_trace s) ⟨trivial, rfl, rfl⟩
  refine Extends.trans ?_ (finish_extends _)
  refine Extends.trans ?_ (reapplyAngles_extends _)
  refine Extends.trans ?_ (zeroChannels_extends _)
  refine Extends.trans ?_ (regWrite_extends ..)
  refine Extends.trans ?_ (.of_eq (waitBusy_trace ..))
  exact ((read.trans (regWrite_extends ..)).trans (regWrite_extends ..)).trans (regWrite_extends ..)

theorem sweepSegment_extends (i : Servo) (target delay : Word) (s : State) :
    Extends Item.Quiet s (s.sweepSegment i target delay) := by
  have paused := (moveServo_extends i (sweepNext (s.angleOf i) target.toInt) { s with seq := .sweep i target delay }).trans
    (pause_extends .cmd delay.toInt.toNat _)
  rcases sweepSegment_cases i target delay s with ⟨_, e⟩ | ⟨_, p, rfl, ⟨_, e⟩ | ⟨_, e⟩⟩ <;> rw [e]
  · exact finish_extends s
  · exact Extends.trans paused (finish_extends _)
  · exact paused

theorem moveSegment_extends (m : Move) (s : State) : Extends Item.Quiet s (s.moveSegment m) := by
  rcases moveSegment_cases m s with ⟨_, e⟩ | ⟨_, e⟩ <;> rw [e]
  · exact (Extends.of_eq rfl).trans ((frameLanes_extends _ _ _ { s with seq := .move { m with k := m.k + 1 } }).trans
      (pause_extends _ _ _))
  · exact (snapLanes_extends _ s).trans (finish_extends _)

theorem moveStart_extends (dur : Int) (targets : List Word) (s : State) :
    Extends Item.Quiet s (s.moveStart dur targets) := by
  rcases moveStart_cases dur targets s with ⟨_, e⟩ | ⟨_, _, e⟩ <;> rw [e]
  · exact (snapLanes_extends _ s).trans (finish_extends _)
  · exact moveSegment_extends _ s

theorem resume_extends (s : State) : Extends Item.Quiet s s.resume := by
  unfold State.resume
  split
  · exact finish_extends s
  · exact sweepSegment_extends _ _ _ s
  · exact moveSegment_extends _ s

theorem firstSegment_extends (i : Instr) (s : State) : Extends Item.Quiet s (firstSegment i s) := by
  cases i with
  | init => exact init_extends s
  | setch ch on off => exact (setChannel_extends _ _ _ s).trans (finish_extends _)
  | setangle n deg => exact (driveServo_extends _ _ s).trans (finish_extends _)
  | sweep n target delay =>
    rcases firstSegment_sweep_cases n target delay s with ⟨i, _, e⟩ | ⟨_, e⟩ <;> rw [e]
    · exact sweepSegment_extends i target delay s
    · exact finish_extends s
  | movesync dur targets =>
    rcases firstSegment_movesync_cases dur targets s with ⟨_, e⟩ | ⟨_, e⟩ <;> rw [e]
    · exact moveStart_extends _ targets s
    · exact finish_extends s
  | run m speed => exact (driveMotor_extends _ _ s).trans (finish_extends _)
  | lfstep max left right => exact ((driveMotor_extends _ _ s).trans (driveMotor_extends _ _ _)).trans (finish_extends _)
  | wdark thr => exact (Extends.of_eq (registerDark_trace thr s)).trans (finish_extends _)
  | wcolor => exact (Extends.of_eq rfl).trans (finish_extends { s with colorRun := .running })
  | reserved op operands => exact finish_extends s
  | chwrite ch p q r b =>
    exact .single (busWrite_trace ..) ⟨⟨rfl, _, by simp only [decode, decodePayload, channelAt_chreg]; rfl⟩, rfl, rfl⟩
  | regwrite reg v => exact regWrite_extends reg v s

/-! ### The image -/

section
variable {P : Memory → Prop} (hP : KeptByChannelWrites P)
include hP

theorem sweepSegment_keeps (i : Servo) (target delay : Word) {s : State} (h : P s.image) :
    P (s.sweepSegment i target delay).image := by
  have moved := moveServo_keeps hP i (sweepNext (s.angleOf i) target.toInt) (s := { s with seq := .sweep i target delay }) h
  rcases sweepSegment_cases i target delay s with ⟨_, e⟩ | ⟨_, p, rfl, ⟨_, e⟩ | ⟨_, e⟩⟩ <;> rw [e]
  · exact h
  · rw [finish_image, pause_image]; exact moved
  · rw [pause_image]; exact moved

theorem moveSegment_keeps (m : Move) {s : State} (h : P s.image) : P (s.moveSegment m).image := by
  rcases moveSegment_cases m s with ⟨_, e⟩ | ⟨_, e⟩ <;> rw [e]
  · rw [pause_image]; exact frameLanes_keeps hP _ _ _ (s := { s with seq := .move { m with k := m.k + 1 } }) h
  · rw [finish_image]; exact snapLanes_keeps hP _ h

theorem moveStart_keeps (dur : Int) (targets : List Word) {s : State} (h : P s.image) :
    P (s.moveStart dur targets).image := by
  rcases moveStart_cases dur targets s with ⟨_, e⟩ | ⟨_, _, e⟩ <;> rw [e]
  · rw [finish_image]; exact snapLanes_keeps hP _ h
  · exact moveSegment_keeps hP _ h

theorem resume_keeps {s : State} (h : P s.image) : P s.resume.image := by
  unfold State.resume
  split
  · exact h
  · exact sweepSegment_keeps hP _ _ _ h
  · exact moveSegment_keeps hP _ h

/-- Only INIT and a REGWRITE write outside the channels' blocks (20_memory R71). -/
theorem firstSegment_keeps {i : Instr} {s : State} (h : P s.image)
    (hinit : i = .init → P (firstSegment .init s).image)
    (hreg : ∀ reg v, i = .regwrite reg v → P (s.regWrite reg v).image) : P (firstSegment i s).image := by
  cases i with
  | init => exact hinit rfl
  | setch ch on off => rw [firstSegment, finish_image]; exact setChannel_keeps hP _ _ _ h
  | setangle n deg => rw [firstSegment, finish_image]; exact driveServo_keeps hP _ _ h
  | sweep n target delay =>
    rcases firstSegment_sweep_cases n target delay s with ⟨i, _, e⟩ | ⟨_, e⟩ <;> rw [e]
    · exact sweepSegment_keeps hP i target delay h
    · exact h
  | movesync dur targets =>
    rcases firstSegment_movesync_cases dur targets s with ⟨_, e⟩ | ⟨_, e⟩ <;> rw [e]
    · exact moveStart_keeps hP _ targets h
    · exact h
  | run m speed => rw [firstSegment, finish_image]; exact driveMotor_keeps hP _ _ h
  | lfstep max left right => rw [firstSegment, finish_image]; exact lineFollowStep_keeps hP _ _ _ h
  | wdark thr => exact h
  | wcolor => exact h
  | reserved op operands => exact h
  | chwrite ch p q r b =>
    rw [firstSegment, busWrite_image, chreg_toNat]
    exact hP _ ch _ (by simp) h
  | regwrite reg v => exact hreg reg v rfl

end

end Sys2Proof.Machine
end

section
/-! PROOFS. What one step does, as the segment of a woken task (`TaskRan`), and the statements about every step that follow
from what segments leave alone: pauses, the port of a busy block, the watchers' table, the trace, auto-increment, and who
writes which register. -/

namespace Sys2Proof.Machine

/-! ### One step -/

/-- The state with other words on the CMD port. -/
def State.withCmdIn (words : List Word) (s : State) : State := { s with env := { s.env with cmdIn := words } }

/-- The state with other payloads waiting. -/
def State.withBusIn (payloads : List (List Byte)) (s : State) : State := { s with env := { s.env with busIn := payloads } }

/-- What the segment of a task makes of the woken state `w` (60_exceptions R242 to R244). -/
inductive TaskRan (s w : State) : Task → State → Prop
  | dark : s.darkRun = .running → TaskRan s w .dark w.darkPoll
  | color : s.colorRun = .running → TaskRan s w .color w.colorPoll
  | resume : s.busy = true → TaskRan s w .cmd w.resume
  | accept {packet rest : List Word} {i : Instr} : s.busy = false → takePacket s.env.cmdIn = some (packet, rest) →
      decode (.packet packet) = .ok i → IsCommand i →
      TaskRan s w .cmd (firstSegment i ((w.withCmdIn rest).accept i))

/-- What a step does: a payload's bus write, nothing, or the segment of a woken task (60_exceptions R242). -/
theorem step_inversion {s t : State} (h : step s = .next t) :
    (∃ bytes rest i, s.env.busIn = bytes :: rest ∧ decode (.payload bytes) = .ok i ∧ ¬ IsCommand i ∧
        t = firstSegment i (s.withBusIn rest)) ∨
      (s.env.busIn = [] ∧ s.nextTask = none ∧ t = s) ∨
      ∃ task s', s.env.busIn = [] ∧ s.nextTask = some (task, s') ∧ Woken task s (s'.wakeUp task) ∧
        TaskRan s (s'.wakeUp task) task t := by
  rcases step_next h with payload | idle | ⟨s', task, hb, hn, _, hran⟩
  · exact .inl payload
  · exact .inr (.inl idle)
  · refine .inr (.inr ⟨task, s', hb, hn, woken_of_nextTask hn, ?_⟩)
    cases task with
    | dark => obtain ⟨hd, rfl⟩ := hran; exact .dark hd
    | color => obtain ⟨hc, rfl⟩ := hran; exact .color hc
    | cmd =>
      rcases hran with ⟨hbusy, rfl⟩ | ⟨hbusy, packet, rest, i, ht, hd, hi, rfl⟩
      · exact .resume hbusy
      · exact .accept hbusy ht hd hi

/-- The step of a chosen task runs that task's segment. -/
theorem taskRan_of_step {s s' t : State} {task : Task} (hb : s.env.busIn = []) (hn : s.nextTask = some (task, s'))
    (h : step s = .next t) : TaskRan s (s'.wakeUp task) task t := by
  rcases step_inversion h with ⟨_, _, _, hb', _⟩ | ⟨_, hn', _⟩ | ⟨task', s'', _, hn', _, hran⟩
  · rw [hb] at hb'; cases hb'
  · rw [hn] at hn'; cases hn'
  · rw [hn] at hn'
    cases hn'
    exact hran

theorem chwrite_or_regwrite_of_not_isCommand {i : Instr} (h : ¬ IsCommand i) :
    (∃ ch p q r b, i = .chwrite ch p q r b) ∨ ∃ reg v, i = .regwrite reg v := by
  cases i with
  | chwrite ch p q r b => exact .inl ⟨_, _, _, _, _, rfl⟩
  | regwrite reg v => exact .inr ⟨_, _, rfl⟩
  | _ => exact absurd ⟨_, rfl⟩ h

/-- A delivered payload changes the image and the trace alone (20_memory R66). -/
theorem payload_frame {i : Instr} (h : ¬ IsCommand i) (s : State) :
    SameRegisters s (firstSegment i s) ∧ SameWatchers s (firstSegment i s) ∧ (firstSegment i s).busy = s.busy ∧
      (firstSegment i s).seq = s.seq ∧ (firstSegment i s).env = s.env := by
  rcases chwrite_or_regwrite_of_not_isCommand h with ⟨ch, p, q, r, b, rfl⟩ | ⟨reg, v, rfl⟩ <;>
    exact ⟨⟨rfl, rfl, rfl⟩, ⟨rfl, rfl, rfl⟩, rfl, rfl, rfl⟩

/-! ### Time and sleeps -/

theorem TaskRan.time {s w t : State} {task : Task} (h : TaskRan s w task t) : w.env.now ≤ t.env.now := by
  cases h with
  | dark => rw [darkPoll_eq]
  | color => rw [colorPoll_eq]
  | resume => rw [(resume_motionFrame w).env]
  | @accept _ rest i => have own := firstSegment_ownWrites i ((w.withCmdIn rest).accept i); exact own.time

theorem Sleeps.get_of_cmd {y z : Sleeps} (h : y = { z with cmd := y.cmd }) {u : Task} (hu : u ≠ .cmd) :
    y.get u = z.get u := by
  rw [h]
  cases u with
  | cmd => exact absurd rfl hu
  | dark => rfl
  | color => rfl

/-- A segment ends with a pause of its own task or with none: the sleeps of the others stay. -/
theorem TaskRan.sleep_other {s w t : State} {task u : Task} (h : TaskRan s w task t) (hu : u ≠ task) :
    t.sleep.get u = w.sleep.get u := by
  cases h with
  | dark => rw [darkPoll_eq]; exact Sleeps.get_set_other w.sleep hu _
  | color => rw [colorPoll_eq]; exact Sleeps.get_set_other w.sleep hu _
  | resume => exact Sleeps.get_of_cmd (resume_motionFrame w).sleep hu
  | accept => exact Sleeps.get_of_cmd (firstSegment_ownWrites _ _).sleep hu

/-- Settles O12: the wake is not before the end of the pause, and a segment takes no time off and pauses its own task
only. -/
theorem pausesAreLowerBounds : Obligations.PausesAreLowerBounds := by
  have woken_sleep {s w : State} {task u : Task} (hw : Woken task s w) (hu : u ≠ task) :
      w.sleep.get u = s.sleep.get u := by
    rw [hw.sleep, Sleeps.get_set_other _ hu]
  refine ⟨fun s s' task hb hn => ?runs, fun s s' t task hb hn h => ?keeps, fun s t h => ?monotone⟩
  case runs =>
    have hw := woken_of_nextTask hn
    exact ⟨s'.wakeUp task, step_of_nextTask hb hn, hw.time.2, hw.time.1, by rw [hw.sleep, Sleeps.get_set_self],
      fun u hu => woken_sleep hw hu⟩
  case keeps =>
    have hw := woken_of_nextTask hn
    have hran := taskRan_of_step hb hn h
    exact ⟨hw.time.2.trans hran.time, fun u hu => (hran.sleep_other hu).trans (woken_sleep hw hu)⟩
  case monotone =>
    rcases step_inversion h with ⟨_, rest, i, _, _, _, rfl⟩ | ⟨_, _, rfl⟩ | ⟨task, s', _, _, hw, hran⟩
    · have own := firstSegment_ownWrites i (s.withBusIn rest); exact own.time
    · exact Nat.le_refl _
    · exact hw.time.1.trans hran.time

/-! ### The trace and the CMD port -/

theorem darkPoll_extends {P : Item → Prop} {s : State} (hs : P (.ambient s.ambientAnswer))
    (he : ∀ w ∈ s.watch, P (.event Config.evDark w.thr)) (hp : P (.pause .dark Config.darkPollMs)) :
    Extends P s s.darkPoll := by
  refine ⟨_, congrArg State.trace (darkPoll_eq s), fun it hit => ?_⟩
  simp only [List.mem_cons, List.mem_append, List.not_mem_nil, or_false] at hit
  rcases hit with rfl | hit | rfl
  · exact hs
  · obtain ⟨w, hw, rfl⟩ := List.mem_map.1 hit
    exact he w (List.mem_filter.1 hw).1
  · exact hp

theorem colorPoll_extends {P : Item → Prop} {s : State} (hs : P (.color s.colorAnswer))
    (he : P (.event Config.evColor s.colorAnswer)) (hp : P (.pause .color Config.colorPollMs)) :
    Extends P s s.colorPoll := by
  refine ⟨_, congrArg State.trace (colorPoll_eq s), fun it hit => ?_⟩
  simp only [List.mem_cons, List.mem_append, List.not_mem_nil, or_false] at hit
  rcases hit with rfl | hit | rfl
  · exact hs
  · split at hit
    · cases hit
    · exact List.mem_singleton.1 hit ▸ he
  · exact hp

/-- What an item that a step adds has: it is a payload if it is a bus write, and no acceptance while BUSY is 1. -/
structure Item.FromStep (busy : Bool) (it : Item) : Prop where
  isPayload : it.isPayload
  notAccepted : busy = true → it.isAccepted = false

theorem step_extends {s t : State} (h : step s = .next t) : Extends (Item.FromStep s.busy) s t := by
  have quiet {u v : State} (h : Extends Item.Quiet u v) : Extends (Item.FromStep s.busy) u v :=
    h.mono fun _ hq => ⟨hq.isPayload, fun _ => hq.notAccepted⟩
  rcases step_inversion h with ⟨_, rest, i, _, _, _, rfl⟩ | ⟨_, _, rfl⟩ | ⟨task, s', _, _, hw, hran⟩
  · exact (Extends.of_eq rfl).trans (quiet (firstSegment_extends i (s.withBusIn rest)))
  · exact .of_eq rfl
  · refine (Extends.of_eq hw.trace).trans ?_
    cases hran with
    | dark => exact darkPoll_extends ⟨trivial, fun _ => rfl⟩ (fun _ _ => ⟨trivial, fun _ => rfl⟩) ⟨trivial, fun _ => rfl⟩
    | color => exact colorPoll_extends ⟨trivial, fun _ => rfl⟩ ⟨trivial, fun _ => rfl⟩ ⟨trivial, fun _ => rfl⟩
    | resume => exact quiet (resume_extends _)
    | accept hbusy =>
      refine Extends.trans (.single (accept_trace _ _) ⟨trivial, fun hb => ?_⟩) (quiet (firstSegment_extends _ _))
      exact absurd (hb.symm.trans hbusy) (by simp)

/-- Settles O13: a busy block's own segment is a resumption, which leaves the port alone. -/
theorem busyBlockAcceptsNoCommand : Obligations.BusyBlockAcceptsNoCommand := by
  intro s t hbusy h
  obtain ⟨items, hitems, hp⟩ := step_extends h
  refine ⟨?port, items, hitems, fun it hit => (hp it hit).notAccepted hbusy⟩
  case port =>
    rcases step_inversion h with ⟨_, rest, i, _, _, hi, rfl⟩ | ⟨_, _, rfl⟩ | ⟨task, s', _, _, hw, hran⟩
    · obtain ⟨_, _, _, _, henv⟩ := payload_frame hi (s.withBusIn rest)
      rw [henv]
      rfl
    · rfl
    · have hport : (s'.wakeUp task).env.cmdIn = s.env.cmdIn := by rw [hw.env]
      cases hran with
      | dark => rw [darkPoll_eq]; exact hport
      | color => rw [colorPoll_eq]; exact hport
      | resume => rw [(resume_motionFrame _).env]; exact hport
      | accept hidle => exact absurd (hbusy.symm.trans hidle) (by simp)

/-- Settles O50: a bus write of a segment is a channel's or a control register's. -/
theorem everyStepExtendsTheTraceWithPayloads : Obligations.EveryStepExtendsTheTraceWithPayloads :=
  fun _ _ h => (step_extends h).mono fun _ hp => hp.isPayload

/-! ### The watchers' table -/

theorem registerDark_watch_prefix (thr : Word) (s : State) : s.watch <+: (s.registerDark thr).watch := by
  rw [registerDark_watch]
  split
  · exact List.prefix_append _ _
  · exact List.prefix_refl _

/-- A first segment stops no watcher and only appends to the table (10_state R35, R36). -/
theorem firstSegment_watch_prefix (i : Instr) (s : State) : s.watch <+: (firstSegment i s).watch ∧
    (s.darkRun = .running → (firstSegment i s).darkRun = .running) ∧
    (s.colorRun = .running → (firstSegment i s).colorRun = .running) := by
  have own := firstSegment_ownWrites i s
  by_cases hw : ∃ thr, i = .wdark thr
  · obtain ⟨thr, rfl⟩ := hw
    exact ⟨registerDark_watch_prefix thr s, fun _ => rfl, fun h => (own.color (by simp)).trans h⟩
  · have hdark := own.dark fun thr e => hw ⟨thr, e⟩
    refine ⟨by rw [hdark.1], fun h => hdark.2.trans h, fun h => ?_⟩
    by_cases hc : i = .wcolor
    · subst hc; rfl
    · exact (own.color hc).trans h

/-- Settles O46: a poll keeps the thresholds, and of the commands only a registration touches the table, which it appends
to. -/
theorem watchersNeverStopAndKeepTheirEntries : Obligations.WatchersNeverStopAndKeepTheirEntries := by
  intro s t h
  rcases step_inversion h with ⟨_, rest, i, _, _, hi, rfl⟩ | ⟨_, _, rfl⟩ | ⟨task, s', _, _, hw, hran⟩
  · obtain ⟨_, hw, _, _, _⟩ := payload_frame hi (s.withBusIn rest)
    exact ⟨hw.darkRun.trans, hw.colorRun.trans, by rw [hw.watch]; exact List.prefix_refl _⟩
  · exact ⟨id, id, List.prefix_refl _⟩
  · simp only [← hw.watch, ← hw.darkRun, ← hw.colorRun]
    cases hran with
    | dark => rw [darkPoll_eq]; exact ⟨id, id, by rw [polled_thresholds]⟩
    | color => rw [colorPoll_eq]; exact ⟨id, id, List.prefix_refl _⟩
    | resume =>
      have hr := (resume_motionFrame (s'.wakeUp .cmd)).watchers
      exact ⟨hr.darkRun.trans, hr.colorRun.trans, by rw [hr.watch]⟩
    | @accept _ rest i =>
      obtain ⟨hp, hd, hc⟩ := firstSegment_watch_prefix i (((s'.wakeUp .cmd).withCmdIn rest).accept i)
      exact ⟨hd, hc, hp.map Watcher.thr⟩

/-! ### Auto-increment -/

/-- Settles O51: channel writes leave `MODE` alone, and INIT's last control write sets the bit. -/
theorem autoIncrementStaysOn : Obligations.AutoIncrementStaysOn := by
  intro s t hb hai h
  rcases step_inversion h with ⟨_, _, _, hb', _⟩ | ⟨_, _, rfl⟩ | ⟨task, s', _, _, hw, hran⟩
  · rw [hb] at hb'; cases hb'
  · exact hai
  · rw [← hw.image] at hai
    cases hran with
    | dark => rw [darkPoll_eq]; exact hai
    | color => rw [colorPoll_eq]; exact hai
    | resume => exact resume_keeps (autoIncrement_kept true) hai
    | accept _ _ _ hi =>
      refine firstSegment_keeps (autoIncrement_kept true) hai (fun _ => ?init) fun reg v e => ?regwrite
      case init => rw [firstSegment, finish_image]; exact initialize_autoIncrement _
      case regwrite =>
        obtain ⟨_, hw⟩ := hi
        rw [e] at hw
        cases hw

/-! ### Who writes what -/

/-- Settles O52: what `exec` runs is a first segment, after an acceptance that touches BUSY and the trace alone. -/
theorem eachRegisterHasOneWriter : Obligations.EachRegisterHasOneWriter := by
  intro i s t h
  have key : OwnWrites i s t ∧ Extends (fun it => it.isEvent = false) s t := by
    have silent {u v : State} (h : Extends Item.Quiet u v) : Extends (fun it => it.isEvent = false) u v :=
      h.mono fun _ hq => hq.notEvent
    rcases exec_cases i s with ⟨_, _, he⟩ | ⟨_, _, he⟩ | ⟨_, he⟩ <;> rw [he] at h <;> cases h
    · exact ⟨ownWrites_of_same i ⟨rfl, rfl, rfl⟩ (.refl s) rfl, .of_eq rfl⟩
    · have own := firstSegment_ownWrites i (s.accept i)
      exact ⟨{ own with }, Extends.trans (.single (accept_trace i s) rfl) (silent (firstSegment_extends i _))⟩
    · exact ⟨firstSegment_ownWrites i s, silent (firstSegment_extends i s)⟩
  obtain ⟨own, items⟩ := key
  exact ⟨own.angle, own.dark, own.color, own.lastColor, own.env, by rw [own.feeds], by rw [own.feeds], items⟩

end Sys2Proof.Machine
end

section
/-! PROOFS. Which step runs: the delivery of a payload, the segment of a chosen task, or nothing; whom the scheduler may
choose; and the placing of an instruction so that the next step runs it. -/

namespace Sys2Proof.Machine

/-! ### Payloads -/

theorem step_of_payload {s : State} {bytes : List Byte} {rest : List (List Byte)} (h : s.env.busIn = bytes :: rest) :
    step s = (s.withBusIn rest).deliverPayload bytes := by
  simp only [step, h, State.withBusIn]

theorem deliverPayload_ok {s : State} {bytes : List Byte} {i : Instr} (h : decode (.payload bytes) = .ok i) :
    s.deliverPayload bytes = exec i s := by
  simp only [State.deliverPayload, h]

/-- Settles O7: a waiting payload is delivered before any task is chosen. -/
theorem stepDeliversTheDecodedPayload : Obligations.StepDeliversTheDecodedPayload := by
  intro s bytes rest i hb hd
  rw [step_of_payload hb, deliverPayload_ok hd, State.withBusIn]

/-- Settles O8: the delivery of what does not decode is the one refusal. -/
theorem otherPayloadsAreRefused : Obligations.OtherPayloadsAreRefused := by
  intro s bytes rest e hb hd
  rw [step_of_payload hb]
  simp only [State.deliverPayload, hd]

/-! ### Packets -/

theorem runTask_cmd_of_packet {s : State} {packet rest : List Word} {i : Instr} (hb : s.busy = false)
    (ht : takePacket s.env.cmdIn = some (packet, rest)) (hd : decode (.packet packet) = .ok i) :
    s.runTask .cmd = exec i (s.withCmdIn rest) := by
  simp only [State.runTask, hb, State.acceptPacket, ht, hd, State.withCmdIn]
  rfl

/-- Settles O6: the woken block is idle as it was, and the packet still stands on the port. -/
theorem stepRunsTheDecodedPacket : Obligations.StepRunsTheDecodedPacket := by
  intro s s' packet rest i hb hn hbusy ht hd
  have hw := woken_of_nextTask hn
  have hport : (s'.wakeUp .cmd).env.cmdIn = s.env.cmdIn := by rw [hw.env]
  rw [step_of_nextTask hb hn, runTask_cmd_of_packet (hw.busy.trans hbusy) (by rw [hport]; exact ht) hd, State.withCmdIn]

/-- Settles O14: of the ways to run an instruction, a command on a busy block is the one that is held off. -/
theorem busyBlockHoldsOffACommand : Obligations.BusyBlockHoldsOffACommand := by
  intro i words s hi hbusy
  rcases exec_cases i s with ⟨_, _, he⟩ | ⟨_, hidle, _⟩ | ⟨hc, _⟩
  · exact he
  · exact absurd (hbusy.symm.trans hidle) (by simp)
  · exact absurd ⟨words, hi⟩ hc

/-! ### Nothing stops the block -/

theorem exec_answers (i : Instr) (s : State) : ∃ t, exec i s = .next t := by
  rcases exec_cases i s with ⟨_, _, he⟩ | ⟨_, _, he⟩ | ⟨_, he⟩ <;> exact ⟨_, he⟩

theorem acceptPacket_answers (s : State) : ∃ t, s.acceptPacket = .next t := by
  unfold State.acceptPacket
  split
  · split
    · exact exec_answers _ _
    · exact ⟨s, rfl⟩
  · exact ⟨s, rfl⟩

theorem runTask_answers (t : Task) (s : State) : ∃ u, s.runTask t = .next u := by
  cases t with
  | dark => exact ⟨_, rfl⟩
  | color => exact ⟨_, rfl⟩
  | cmd =>
    simp only [State.runTask]
    split
    · exact ⟨s.resume, rfl⟩
    · exact acceptPacket_answers s

/-- Settles O9: every way a step can go, but the delivery of what does not decode, answers a next state. -/
theorem nothingStopsTheBlock : Obligations.NothingStopsTheBlock := by
  refine ⟨exec_answers, fun s hpayload => ?_⟩
  rcases step_cases s with ⟨bytes, rest, hb, hs⟩ | ⟨_, _, hs⟩ | ⟨t, s', _, _, hs⟩ <;> rw [hs]
  · obtain ⟨i, hi⟩ := hpayload bytes (by rw [hb]; rfl)
    rw [deliverPayload_ok hi]
    exact exec_answers i _
  · exact ⟨s, rfl⟩
  · exact runTask_answers t _

/-! ### The scheduler's choice -/

theorem Feed.value_pinned {α : Type} (free : Nat → α) (a : α) (as : List α) (n : Nat) :
    Feed.value free ⟨a :: as, n⟩ = a := rfl

/-- A choice that is the place of a live task picks it (60_exceptions R243). -/
theorem nextTask_of_choice {s : State} {t : Task} {n : Nat} (ht : s.liveTasks[n]? = some t)
    (hc : s.env.choiceIn.value Config.choice = n) : ∃ s', s.nextTask = some (t, s') := by
  obtain ⟨hlt, hget⟩ := List.getElem?_eq_some_iff.1 ht
  unfold State.nextTask
  split
  next hl => rw [hl] at hlt; exact absurd hlt (Nat.not_lt_zero n)
  next u hl =>
    simp only [hl, List.length_singleton, Nat.lt_one_iff] at hlt
    subst hlt
    simp only [hl, List.getElem_cons_zero] at hget
    exact ⟨s, by rw [hget]⟩
  next u us _ hl =>
    simp only [hl] at hlt hget
    rw [hc, Nat.mod_eq_of_lt hlt, List.getD_eq_getElem _ _ hlt, hget]
    exact ⟨_, rfl⟩

theorem nextTask_of_singleton {s : State} {t : Task} (h : s.liveTasks = [t]) : s.nextTask = some (t, s) := by
  simp only [State.nextTask, h]

/-- Settles O10: a choice is a place in the list of live tasks, and pinning the place of a live task picks it. -/
theorem schedulerMayPickAnyLiveTask : Obligations.SchedulerMayPickAnyLiveTask := by
  refine ⟨fun s => ⟨?cmd, mem_liveTasks, mem_liveTasks⟩, fun s s' t h => ?chosen, fun s t ht => ?any⟩
  case cmd => rw [mem_liveTasks]; simp [State.cmdReady]
  case chosen =>
    obtain ⟨hlive, rfl | rfl⟩ := nextTask_cases h
    · exact ⟨hlive, s'.env.choiceIn, rfl⟩
    · exact ⟨hlive, _, rfl⟩
  case any =>
    obtain ⟨n, hn⟩ := List.mem_iff_getElem?.1 ht
    exact ⟨n, nextTask_of_choice (s := { s with env := { s.env with
      choiceIn := { s.env.choiceIn with pinned := n :: s.env.choiceIn.pinned } } }) hn rfl⟩

theorem liveTasks_of_idle {s : State} (hd : s.darkRun = .idle) (hc : s.colorRun = .idle) :
    s.liveTasks = if s.cmdReady then [.cmd] else [] := by
  simp [State.liveTasks, hd, hc]

theorem step_of_no_task {s : State} (hb : s.env.busIn = []) (h : s.liveTasks = []) : step s = .next s := by
  simp only [step, hb, nextTask_none.2 h]

/-- Settles O11: without a live task the scheduler chooses none. -/
theorem nothingHappensWithoutATask : Obligations.NothingHappensWithoutATask := by
  have idle : ∀ s : State, s.env.busIn = [] → s.cmdReady = false → s.darkRun = .idle → s.colorRun = .idle →
      step s = .next s := fun s hb hr hd hc => step_of_no_task hb (by rw [liveTasks_of_idle hd hc, hr]; rfl)
  exact ⟨idle, idle _ rfl rfl rfl rfl⟩

/-! ### Placing an instruction -/

/-- A packet that decodes is taken whole from the head of the stream (30_encoding R91). -/
theorem takePacket_append {words : List Word} {i : Instr} (h : decode (.packet words) = .ok i) (rest : List Word) :
    takePacket (words ++ rest) = some (words, rest) := by
  obtain ⟨w0, ws, rfl, hl, _⟩ := decode_packet_ok h
  simp [takePacket, ← hl]

/-- What `withFetchWord` makes of the state for a packet. -/
def State.withPacket (words : List Word) (s : State) : State :=
  { s with
    busy := false,
    seq := .idle,
    env := { s.env with
      cmdIn := words ++ s.env.cmdIn,
      busIn := [],
      choiceIn :=
        if s.darkRun = .idle ∧ s.colorRun = .idle then s.env.choiceIn
        else { s.env.choiceIn with pinned := 0 :: s.env.choiceIn.pinned } } }

theorem withFetchWord_packet {nbits w : Nat} {words : List Word} (h : wireOfTable nbits w = .packet words) (s : State) :
    s.withFetchWord nbits w = s.withPacket words := by
  simp only [State.withFetchWord, h, State.withPacket]

theorem withFetchWord_payload {nbits w : Nat} {bytes : List Byte} (h : wireOfTable nbits w = .payload bytes) (s : State) :
    s.withFetchWord nbits w = s.withBusIn (bytes :: s.env.busIn) := by
  simp only [State.withFetchWord, h, State.withBusIn]

/-- CMD is first among the live tasks, and it is the only one or the one that is chosen. -/
theorem nextTask_withPacket {words : List Word} {i : Instr} (h : decode (.packet words) = .ok i) (s : State) :
    ∃ s', (s.withPacket words).nextTask = some (.cmd, s') := by
  have ready : (s.withPacket words).cmdReady = true := by
    simp [State.cmdReady, State.withPacket, takePacket_append h]
  by_cases hw : s.darkRun = .idle ∧ s.colorRun = .idle
  · have hl := liveTasks_of_idle (s := s.withPacket words) hw.1 hw.2
    rw [ready, if_pos rfl] at hl
    exact ⟨_, nextTask_of_singleton hl⟩
  · refine nextTask_of_choice (n := 0) ?first ?choice
    case first => simp [State.liveTasks, ready]
    case choice => simp only [State.withPacket, if_neg hw, Feed.value_pinned]

theorem decode_of_decodeTableWord {nbits w : Nat} {i : Instr} (h : decodeTableWord nbits w = some i) :
    decode (wireOfTable nbits w) = .ok i := by
  unfold decodeTableWord at h
  split at h
  next j hj => rw [hj, Option.some.inj h]
  next => cases h

/-- Settles O15: a placed packet is at the head of the port with CMD chosen, a placed payload is the first to be
delivered. -/
theorem placedInstructionRunsNext : Obligations.PlacedInstructionRunsNext := by
  intro s nbits w i h
  have hd := decode_of_decodeTableWord h
  have he := (encodeOfDecodeIsTheWire _ i hd).2
  cases hw : wireOfTable nbits w with
  | packet words =>
    rw [hw] at hd he
    obtain ⟨s', hn⟩ := nextTask_withPacket hd s
    have hwk := woken_of_nextTask hn
    rw [withFetchWord_packet hw]
    refine ⟨_, stepRunsTheDecodedPacket _ s' words s.env.cmdIn i rfl hn rfl (takePacket_append hd _) hd, hwk.angle,
      hwk.watch, hwk.darkRun, hwk.colorRun, hwk.lastColor, hwk.image, hwk.trace, rfl, fun _ _ => ?idle, ?noPayload⟩
    case idle =>
      have hsleep := hwk.sleep
      rw [Sleeps.set_cmd] at hsleep
      exact ⟨hwk.busy, hwk.seq, by rw [hwk.env]; rfl, by rw [hsleep]; rfl, by rw [hsleep]; rfl⟩
    case noPayload => intro bytes hb; rw [he] at hb; cases hb
  | payload bytes =>
    rw [hw] at hd he
    rw [withFetchWord_payload hw]
    refine ⟨_, stepDeliversTheDecodedPayload _ bytes s.env.busIn i rfl hd, rfl, rfl, rfl, rfl, rfl, rfl, rfl, rfl,
      ?noPacket, fun _ _ => ⟨rfl, rfl, rfl, rfl⟩⟩
    case noPacket => intro words hp; rw [he] at hp; cases hp

/-! ### Reset and parameters -/

/-- Settles O16: every field of the reset state is written out, and the image is read by `Memory.read_powerOn`. -/
theorem resetState : Obligations.ResetState := by
  refine ⟨fun i => ?angle, rfl, rfl, rfl, rfl, rfl, ⟨rfl, rfl⟩, fun t => ?awake, rfl, Memory.read_powerOn⟩
  case angle => simp [State.angleOf, State.reset]
  case awake => cases t <;> rfl

/-- Settles O47: nothing is in progress, and the image holds its power-on bytes. -/
theorem resetMeetsTheInvariant : Obligations.ResetMeetsTheInvariant where
  imageCanonical := Memory.powerOn_wf
  imageDescribed := Memory.powerOn_described
  imageComplete := Memory.powerOn_complete
  lastColor := List.mem_cons_self
  busySeq := by simp [State.reset]
  seqLegal := trivial
  capacity := fun n _ => Nat.zero_le n
  started := fun _ => rfl

theorem sensAddr_ne_pwmAddr : Config.sensAddr ≠ Config.pwmAddr := by
  unfold Config.sensAddr
  split
  · simp
  · assumption

theorem evColor_ne_evDark : Config.evColor ≠ Config.evDark := by
  unfold Config.evColor
  split
  · simp
  · assumption

/-- Settles O53: the distinct values and the positive ones are so by construction. -/
theorem openParametersAreLegal : Obligations.OpenParametersAreLegal := by
  refine ⟨sensAddr_ne_pwmAddr, evColor_ne_evDark, ?nwatch, Nat.succ_pos _, Nat.succ_pos _, List.mem_cons_self,
    colorAnswer_mem⟩
  case nwatch =>
    unfold Config.nwatch
    cases Config.nwatchLessOne with
    | some n => exact Nat.succ_pos n
    | none => trivial

end Sys2Proof.Machine
end

section
/-! PROOFS. Channel writes and what they leave in the image: the two bus payloads as instructions, the 12-bit view of a
channel, and that a channel's counts outlive the writes of other channels. -/

namespace Sys2Proof.Machine

/-! ### The payloads as instructions -/

theorem exec_chwrite (ch : Channel) (p q r b : Byte) (s : State) :
    exec (.chwrite ch p q r b) s = .next (s.busWrite (chreg ch) [p, q, r, b]) := by
  rfl

theorem exec_regwrite (reg : CtrlReg) (v : Byte) (s : State) : exec (.regwrite reg v) s = .next (s.regWrite reg v) := by
  rfl

/-- A bus write at a channel's offset leaves every byte outside the channel's block (20_memory R66, R67). -/
theorem busWrite_chreg_read_outside {ch : Channel} {data : List Byte} (hd : data.length = 4) (s : State) {a : Nat}
    (h : ¬ InChannel ch a) : (s.busWrite (chreg ch) data).image.read a = s.image.read a := by
  rw [busWrite_image, chreg_toNat, Memory.read_writeBytes, if_neg]
  rw [storedBytes_length, hd]
  exact h

/-- With auto-increment on, byte j sent to a channel's offset is at that offset and j (20_memory R66). -/
theorem busWrite_chreg_read_inside {ch : Channel} {data : List Byte} {s : State} (h : autoIncrement s.image = true) {j : Nat}
    (hj : j < data.length) : (s.busWrite (chreg ch) data).image.read (channelBase ch + j) = data[j]? := by
  rw [busWrite_image, chreg_toNat, storedBytes_sent (.inr h), Memory.read_writeBytes, if_pos ⟨by omega, by omega⟩,
    Nat.add_sub_cancel_left]

/-- Settles O17: a CHWRITE is one bus write at its channel's offset. -/
theorem chwriteStoresItsFourBytes : Obligations.ChwriteStoresItsFourBytes := by
  intro ch p q r b s
  refine ⟨_, exec_chwrite ch p q r b s, busWrite_trace .., ⟨rfl, rfl, rfl⟩, ⟨rfl, rfl, rfl⟩, rfl, rfl, rfl,
    fun a ha => busWrite_chreg_read_outside rfl s ha, fun hai => ?inside⟩
  case inside =>
    have byte (j : Nat) (hj : j < 4) := busWrite_chreg_read_inside (ch := ch) (data := [p, q, r, b]) hai hj
    exact ⟨byte 0 (by omega), byte 1 (by omega), byte 2 (by omega), byte 3 (by omega)⟩

/-- Settles O18: a REGWRITE is one bus write of one byte, which is stored as sent. -/
theorem regwriteStoresItsByte : Obligations.RegwriteStoresItsByte := by
  intro reg v s
  refine ⟨_, exec_regwrite reg v s, regWrite_trace reg v s, ⟨rfl, rfl, rfl⟩, ⟨rfl, rfl, rfl⟩, rfl, rfl, rfl,
    fun a ha => ?outside, ?inside⟩
  case outside => rw [regWrite_image, Memory.read_write, if_neg ha]
  case inside => rw [regWrite_image, Memory.read_write, if_pos rfl]

/-! ### Counts in a channel's block -/

/-- The blocks of two channels are apart (20_memory R71). -/
theorem not_inChannel_of_ne {c d : Channel} (h : c ≠ d) {a : Nat} (ha : InChannel c a) : ¬ InChannel d a := by
  have : c.val ≠ d.val := fun e => h (Fin.ext e)
  unfold InChannel channelBase at *
  omega

theorem inChannel_base (ch : Channel) {j : Nat} (hj : j < 4) : InChannel ch (channelBase ch + j) := by
  unfold InChannel
  omega

/-- A channel whose block reads as before holds the counts it held. -/
theorem ChannelHolds.congr {m n : Memory} {ch : Channel} {on off : Int} (h : ChannelHolds m ch on off)
    (hread : ∀ a, InChannel ch a → Memory.read n a = Memory.read m a) : ChannelHolds n ch on off where
  onLow := (hread _ (inChannel_base ch (j := 0) (by omega))).trans h.onLow
  onHigh := (hread _ (inChannel_base ch (by omega))).trans h.onHigh
  offLow := (hread _ (inChannel_base ch (by omega))).trans h.offLow
  offHigh := (hread _ (inChannel_base ch (by omega))).trans h.offHigh

/-- A channel's counts outlive the write of another channel. -/
theorem ChannelHolds.channelWrite_other {c d : Channel} {s : State} {on off : Int} (h : ChannelHolds s.image c on off)
    (hcd : c ≠ d) (on' off' : Int) : ChannelHolds (s.channelWrite d on' off').image c on off :=
  h.congr fun _ ha => channelWrite_read_outside d on' off' s (not_inChannel_of_ne hcd ha)

@[simp] theorem channelWrite_autoIncrement (ch : Channel) (on off : Int) (s : State) :
    autoIncrement (s.channelWrite ch on off).image = autoIncrement s.image :=
  channelWrite_keeps (autoIncrement_kept (autoIncrement s.image)) ch on off rfl

/-! ### The 12-bit view -/

theorem lo8_toNat (v : Int) : ((lo8 v).toNat : Int) = v % 256 := by
  simp only [lo8, BitVec.toNat_ofInt]
  omega

theorem hi8_toNat (v : Int) : ((hi8 v).toNat : Int) = v / 256 % 256 := by
  simp only [hi8, BitVec.toNat_ofInt]
  omega

/-- A count of 12 bits is read back from its two bytes (10_state R31). -/
theorem tickOfBytes_of_count {v : Int} (h : 0 ≤ v ∧ v ≤ 4095) : tickOfBytes (lo8 v) (hi8 v) = v.toNat := by
  have := lo8_toNat v
  have := hi8_toNat v
  unfold tickOfBytes
  omega

theorem ChannelHolds.onTick {m : Memory} {ch : Channel} {on off : Int} (h : ChannelHolds m ch on off)
    (hon : 0 ≤ on ∧ on ≤ 4095) : Memory.onTick m ch = some on.toNat := by
  simp only [Memory.onTick, h.onLow, h.onHigh, tickOfBytes_of_count hon]

theorem ChannelHolds.offTick {m : Memory} {ch : Channel} {on off : Int} (h : ChannelHolds m ch on off)
    (hoff : 0 ≤ off ∧ off ≤ 4095) : Memory.offTick m ch = some off.toNat := by
  simp only [Memory.offTick, h.offLow, h.offHigh, tickOfBytes_of_count hoff]

theorem ChannelHolds.plainTicks {m : Memory} {ch : Channel} {on off : Int} (h : ChannelHolds m ch on off)
    (hon : 0 ≤ on ∧ on ≤ 4095) (hoff : 0 ≤ off ∧ off ≤ 4095) : Memory.plainTicks m ch = true := by
  have hi8_lt {v : Int} (hv : 0 ≤ v ∧ v ≤ 4095) : (hi8 v).toNat < 16 := by have := hi8_toNat v; omega
  simp only [Memory.plainTicks, h.onHigh, h.offHigh, hi8_lt hon, hi8_lt hoff, decide_true, Bool.and_true]

/-- Settles O19: the write leaves the counts 0 and `off`, both plain. -/
theorem channelIsHighForItsCount : Obligations.ChannelIsHighForItsCount := by
  intro ch off tick s hoff hai
  have holds := channelWrite_holds ch 0 off hai
  have hoff' : (0 : Int) ≤ off ∧ (off : Int) ≤ 4095 := by omega
  simp [Memory.output, holds.onTick (by omega), holds.offTick hoff', holds.plainTicks (by omega) hoff']

end Sys2Proof.Machine
end

section
/-! PROOFS. INIT: its trace and frame, and what it leaves in the image. A fold over channels or servos establishes for each
of them what its own write makes and the writes of the others keep (`foldl_establishes`). -/

namespace Sys2Proof.Machine

/-! ### What INIT emits -/

theorem exec_init_accepts {s : State} (h : s.busy = false) : exec .init s = .next (firstSegment .init (s.accept .init)) :=
  exec_accepts ⟨_, rfl⟩ h

/-- The state when INIT's channel writes begin: its read, its three control writes, its wait and the wake write are done
(40_pwm_driver R131 to R134). -/
def State.awoken (s : State) : State :=
  ((((s.readMode.regWrite .mode (sleepByte s.modeAnswer)).regWrite .prescale prescaleValue).regWrite .mode
    s.modeAnswer).waitBusy oscWaitMs).regWrite .mode (wakeByte s.modeAnswer)

theorem firstSegment_init (s : State) : firstSegment .init s = s.awoken.zeroChannels.reapplyAngles.finish := by
  rfl

@[simp] theorem awoken_angle (s : State) : s.awoken.angle = s.angle := by
  simp [State.awoken]

theorem awoken_trace (s : State) : s.awoken.trace = s.trace ++
    [.read Config.pwmAddr 0x00#8 s.modeAnswer, ctrlItem .mode (sleepByte s.modeAnswer), ctrlItem .prescale prescaleValue,
      ctrlItem .mode s.modeAnswer, ctrlItem .mode (wakeByte s.modeAnswer)] := by
  simp only [State.awoken, regWrite_trace, waitBusy_trace, readMode_trace, List.append_assoc, List.cons_append,
    List.nil_append]

/-- INIT's items: its read, its four control writes, the zero writes and the servo writes, and its end (40_pwm_driver
R130). -/
theorem init_trace (s : State) : (firstSegment .init s).trace = s.trace ++
    ([.read Config.pwmAddr 0x00#8 s.modeAnswer, ctrlItem .mode (sleepByte s.modeAnswer),
      ctrlItem .prescale prescaleValue, ctrlItem .mode s.modeAnswer, ctrlItem .mode (wakeByte s.modeAnswer)] ++
      (List.finRange 16).map (fun ch => channelItem ch 0 0) ++
      (List.finRange 8).map (fun i => servoItem i (s.angleOf i)) ++ [.done .cmd]) := by
  have angles (i : Servo) : s.awoken.zeroChannels.angleOf i = s.angleOf i := angleOf_congr (by simp) i
  simp only [firstSegment_init, finish_trace, reapplyAngles_trace, angles, zeroChannels_trace, awoken_trace, channels_eq,
    servos_eq, List.append_assoc]

/-! ### What a fold establishes -/

/-- A fold establishes for a member what its own turn makes of a state with `R` and every turn keeps. -/
theorem foldl_establishes {α : Type} {f : State → α → State} {R Q : State → Prop} {a : α}
    (hR : ∀ s b, R s → R (f s b)) (hmake : ∀ s, R s → Q (f s a)) (hkeep : ∀ s b, R s → Q s → Q (f s b)) {l : List α}
    (ha : a ∈ l) {s : State} (hs : R s) : Q (l.foldl f s) := by
  have kept : ∀ (l : List α) (s : State), R s → Q s → Q (l.foldl f s) := by
    intro l
    induction l with
    | nil => exact fun s _ h => h
    | cons b l ih => exact fun s hr h => ih _ (hR s b hr) (hkeep s b hr h)
  induction l generalizing s with
  | nil => cases ha
  | cons b l ih =>
    rcases List.mem_cons.1 ha with rfl | ha
    · exact kept l _ (hR s a hs) (hmake s hs)
    · exact ih ha (hR s b hs)

/-- With auto-increment on, the zero writes leave every channel's counts 0 (40_pwm_driver R135). -/
theorem zeroChannels_holds {s : State} (h : autoIncrement s.image = true) (c : Channel) :
    ChannelHolds s.zeroChannels.image c 0 0 := by
  unfold State.zeroChannels
  refine foldl_establishes (a := c) (R := fun s => autoIncrement s.image = true)
    (Q := fun s => ChannelHolds s.image c 0 0) (fun s d hs => ?_) (fun s hs => ?_) (fun s d hs hq => ?_)
    (by rw [channels_eq]; exact List.mem_finRange c) h <;> rw [setChannel_channel]
  · rwa [channelWrite_autoIncrement]
  · exact channelWrite_holds c 0 0 hs
  · by_cases hd : c = d
    · exact hd ▸ channelWrite_holds c 0 0 hs
    · exact hq.channelWrite_other hd 0 0

theorem servoChannel_injective {i j : Servo} (h : servoChannel i = servoChannel j) : i = j := by
  have := congrArg Fin.val h
  simp only [servoChannel] at this
  exact Fin.ext (by omega)

/-- With auto-increment on, the servo writes leave each servo's angle on its channel (40_pwm_driver R136). -/
theorem reapplyAngles_holds {s : State} (h : autoIncrement s.image = true) (i : Servo) :
    ChannelHolds s.reapplyAngles.image (servoChannel i) 0 (ticks (s.angleOf i)) := by
  unfold State.reapplyAngles
  refine foldl_establishes (a := i) (R := fun t => autoIncrement t.image = true ∧ t.angle = s.angle)
    (Q := fun t => ChannelHolds t.image (servoChannel i) 0 (ticks (s.angleOf i))) (fun t j ht => ?_) (fun t ht => ?_)
    (fun t j ht hq => ?_) (by rw [servos_eq]; exact List.mem_finRange i) ⟨h, rfl⟩ <;> rw [driveServo_number]
  · exact ⟨(channelWrite_autoIncrement ..).trans ht.1, ht.2⟩
  · rw [angleOf_congr ht.2]
    exact channelWrite_holds _ _ _ ht.1
  · by_cases hj : i = j
    · subst hj
      rw [angleOf_congr ht.2]
      exact channelWrite_holds _ _ _ ht.1
    · exact hq.channelWrite_other (fun e => hj (servoChannel_injective e)) _ _

/-- The servo writes leave a channel below the servos' as it was. -/
theorem reapplyAngles_keeps_holds {s : State} {c : Channel} (hc : c.val < 8) {on off : Int}
    (h : ChannelHolds s.image c on off) : ChannelHolds s.reapplyAngles.image c on off := by
  unfold State.reapplyAngles
  refine foldl_image_keeps (P := fun m => ChannelHolds m c on off) _ (fun t i ht => ?_) servos h
  rw [driveServo_number]
  exact ChannelHolds.channelWrite_other ht (fun e => by have := congrArg Fin.val e; simp only [servoChannel] at this; omega) _ _

/-! ### The image after INIT -/

theorem awoken_image (s : State) : s.awoken.image =
    (((s.image.write 0x00 (sleepByte s.modeAnswer)).write 0xFE prescaleValue).write 0x00 s.modeAnswer).write 0x00
      (wakeByte s.modeAnswer) := by
  simp only [State.awoken, regWrite_image, waitBusy_image, readMode_image]
  rfl

theorem awoken_autoIncrement (s : State) : autoIncrement s.awoken.image = true := by
  rw [awoken_image]
  simp only [autoIncrement, Memory.read_write, if_pos]
  simpa using wakeByte_autoIncrement _

/-- A byte outside every channel's block is after INIT as the control writes left it. -/
theorem init_read {a : Nat} (ha : ∀ ch, ¬ InChannel ch a) (s : State) :
    (firstSegment .init s).image.read a = s.awoken.image.read a := by
  rw [firstSegment, finish_image]
  refine initialize_keeps (read_kept ha _) ?_
  rw [awoken_image]

theorem not_inChannel_of_undescribed {a : Nat} (h : ¬ describedOffset a = true) (ch : Channel) : ¬ InChannel ch a := by
  intro hc
  have := ch.isLt
  unfold InChannel channelBase at hc
  simp only [describedOffset, Bool.or_eq_true, Bool.and_eq_true, decide_eq_true_eq, beq_iff_eq] at h
  omega

/-- A described offset is a control register's or in a channel's block (20_memory R71). -/
theorem describedOffset_cases {a : Nat} (h : describedOffset a = true) :
    a = 0x00 ∨ a = 0xFE ∨ ∃ ch : Channel, ∃ j, j < 4 ∧ a = channelBase ch + j := by
  simp only [describedOffset, Bool.or_eq_true, Bool.and_eq_true, decide_eq_true_eq, beq_iff_eq] at h
  rcases h with (h | h) | h
  · exact .inl h
  · exact .inr (.inr ⟨⟨(a - 6) / 4, by omega⟩, (a - 6) % 4, by omega, by simp only [channelBase]; omega⟩)
  · exact .inr (.inl h)

theorem init_mode (s : State) : (firstSegment .init s).image.read 0x00 = some (wakeByte s.modeAnswer) := by
  rw [init_read (not_inChannel_of_lt (by omega)), awoken_image, Memory.read_write, if_pos rfl]

theorem init_prescale (s : State) : (firstSegment .init s).image.read 0xFE = some prescaleValue := by
  rw [init_read (not_inChannel_of_gt (by omega)), awoken_image]
  simp [Memory.read_write]

/-- A channel that holds counts has a byte at each offset of its block. -/
theorem ChannelHolds.isSome {m : Memory} {ch : Channel} {on off : Int} (h : ChannelHolds m ch on off) {j : Nat}
    (hj : j < 4) : (Memory.read m (channelBase ch + j)).isSome := by
  rcases j with _ | _ | _ | _ | j
  · rw [Nat.add_zero, h.onLow]; rfl
  · rw [h.onHigh]; rfl
  · rw [h.offLow]; rfl
  · rw [h.offHigh]; rfl
  · omega

theorem init_zero (s : State) {ch : Channel} (h : ch.val < 8) : ChannelHolds (firstSegment .init s).image ch 0 0 := by
  rw [firstSegment_init, finish_image]
  exact reapplyAngles_keeps_holds h (zeroChannels_holds (awoken_autoIncrement s) ch)

theorem init_servo (s : State) (i : Servo) :
    ChannelHolds (firstSegment .init s).image (servoChannel i) 0 (ticks (s.angleOf i)) := by
  have hai : autoIncrement s.awoken.zeroChannels.image = true :=
    zeroChannels_keeps (autoIncrement_kept true) (awoken_autoIncrement s)
  have h := reapplyAngles_holds hai i
  rw [angleOf_congr (s := s) (by simp)] at h
  rwa [firstSegment_init, finish_image]

/-- Every described offset holds a byte after INIT, whatever the image held. -/
theorem init_complete (s : State) {a : Nat} (h : describedOffset a = true) :
    ((firstSegment .init s).image.read a).isSome := by
  rcases describedOffset_cases h with rfl | rfl | ⟨ch, j, hj, rfl⟩
  · rw [init_mode]; rfl
  · rw [init_prescale]; rfl
  · by_cases hc : ch.val < 8
    · exact (init_zero s hc).isSome hj
    · have hs : ch = servoChannel ⟨ch.val - 8, by omega⟩ := Fin.ext (by simp only [servoChannel]; omega)
      rw [hs]
      exact (init_servo s _).isSome hj

/-- Settles O20: INIT's items are those of its parts in order, and its frame is its first segment's. -/
theorem initWritesItsSequence : Obligations.InitWritesItsSequence := by
  intro s hbusy
  have own := firstSegment_ownWrites .init (s.accept .init)
  obtain ⟨hwatch, hdark⟩ := own.dark (by simp)
  refine ⟨_, exec_init_accepts hbusy, ⟨?trace, rfl, rfl⟩, ⟨own.angle (by simp) (by simp), own.lastColor, ?sleep⟩,
    ⟨hwatch, hdark, own.color (by simp)⟩, ?time, ?env, fun a ha => init_complete _ ha⟩
  case trace =>
    rw [init_trace, accept_trace, commandItems, List.append_assoc]
    rfl
  case sleep => simp [firstSegment]
  case time => rw [firstSegment, finish_env, initialize_env, accept_env]; simp only [oscWaitMs]; omega
  case env => rw [firstSegment, finish_env, initialize_env, accept_env]

/-- Settles O21: `MODE` and `PRESCALE` are as the control writes left them; the channels as the zero writes did, and the
servos' as the servo writes did. -/
theorem initLeavesTheControllerReady : Obligations.InitLeavesTheControllerReady := by
  intro s hbusy
  refine ⟨_, exec_init_accepts hbusy, init_prescale _, init_mode _, ?autoIncrement, fun ch hc => init_zero _ hc,
    init_servo (s.accept .init), fun a ha => ?outside⟩
  case autoIncrement => rw [firstSegment, finish_image]; exact initialize_autoIncrement _
  case outside =>
    rw [init_read (not_inChannel_of_undescribed ha), awoken_image, accept_image]
    have h0 : a ≠ 0x00 := by rintro rfl; exact ha rfl
    have h1 : a ≠ 0xFE := by rintro rfl; exact ha rfl
    simp [Memory.read_write, h0, h1]

end Sys2Proof.Machine
end

section
/-! PROOFS. The commands of one segment that only write channels: SETCH, RESERVED, SETANGLE, RUN and LFSTEP. What they share
is `BusEffect`: items on the trace, and no register, watcher or feed touched. -/

namespace Sys2Proof.Machine

/-! ### An effect on the bus alone -/

/-- These items on the trace, whatever bytes in the image, and nothing else of the block or the outside. -/
structure BusEffect (items : List Item) (s t : State) : Prop where
  trace : t.trace = s.trace ++ items
  registers : SameRegisters s t
  watchers : SameWatchers s t
  env : t.env = s.env

theorem BusEffect.refl (s : State) : BusEffect [] s s := ⟨by simp, ⟨rfl, rfl, rfl⟩, .refl s, rfl⟩

theorem BusEffect.trans {l₁ l₂ : List Item} {s t u : State} (h₁ : BusEffect l₁ s t) (h₂ : BusEffect l₂ t u) :
    BusEffect (l₁ ++ l₂) s u where
  trace := by rw [h₂.trace, h₁.trace, List.append_assoc]
  registers := h₁.registers.trans h₂.registers
  watchers := h₁.watchers.trans h₂.watchers
  env := h₂.env.trans h₁.env

theorem busEffect_channelWrite (ch : Channel) (on off : Int) (s : State) :
    BusEffect [channelItem ch on off] s (s.channelWrite ch on off) :=
  ⟨channelWrite_trace ch on off s, ⟨rfl, rfl, rfl⟩, ⟨rfl, rfl, rfl⟩, rfl⟩

/-- A command of one segment with such an effect completes with its items, and all else stays. -/
theorem BusEffect.completes {i : Instr} {items : List Item} {s u : State} (h : BusEffect items (s.accept i) u) :
    Completed i items s u.finish ∧ SameRegisters s u.finish ∧ SameWatchers s u.finish ∧ u.finish.env = s.env := by
  refine ⟨⟨?trace, finish_busy u, finish_seq u⟩, ((sameRegisters_accept i s).trans h.registers).finish,
    ((sameWatchers_accept i s).trans h.watchers).trans (sameWatchers_finish u), (finish_env u).trans h.env⟩
  case trace => rw [finish_trace, h.trace, accept_trace, commandItems]; simp only [List.append_assoc]; rfl

/-! ### RESERVED, and SWEEP without distance -/

/-- A command that is its acceptance and its end alone has done nothing. -/
theorem accept_finish_does_nothing (i : Instr) (s : State) :
    Completed i [] s (s.accept i).finish ∧ SameRegisters s (s.accept i).finish ∧ SameWatchers s (s.accept i).finish ∧
      (s.accept i).finish.env = s.env ∧ (s.accept i).finish.image = s.image :=
  ⟨completed_accept_finish i s, sameRegisters_accept_finish i s, sameWatchers_accept_finish i s,
    (finish_env _).trans (accept_env i s), (finish_image _).trans (accept_image i s)⟩

/-- Settles O24: RESERVED is its acceptance and its end alone. -/
theorem reservedPacketDoesNothing : Obligations.ReservedPacketDoesNothing := by
  intro op operands s hbusy
  exact ⟨_, exec_accepts ⟨_, rfl⟩ hbusy, accept_finish_does_nothing _ s⟩

theorem exec_sweep_outside {s : State} (h : s.busy = false) {n : Word} (hn : n.toInt < 1 ∨ n.toInt > 8)
    (target delay : Word) : exec (.sweep n target delay) s = .next (s.accept (.sweep n target delay)).finish := by
  rw [exec_accepts ⟨_, rfl⟩ h]
  rcases firstSegment_sweep_cases n target delay (s.accept (.sweep n target delay)) with ⟨i, hi, _⟩ | ⟨_, e⟩
  · rw [servoOperand_none hn] at hi; cases hi
  · rw [e]

/-- The first segment of a SWEEP of a servo in 1..8 is a segment of that servo's SWEEP (41_servo R155). -/
theorem exec_sweep_servo {s : State} (h : s.busy = false) {n : Word} {i : Servo} (hn : n.toInt = (i.val : Int) + 1)
    (target delay : Word) :
    exec (.sweep n target delay) s = .next ((s.accept (.sweep n target delay)).sweepSegment i target delay) := by
  have hi : servoOperand n.toInt = some i := hn ▸ servoOperand_number i
  rw [exec_accepts ⟨_, rfl⟩ h]
  rcases firstSegment_sweep_cases n target delay (s.accept (.sweep n target delay)) with ⟨j, hj, e⟩ | ⟨hj, _⟩
  · rw [hi] at hj
    cases hj
    rw [e]
  · rw [hi] at hj; cases hj

theorem sweepSegment_at_target {s : State} {i : Servo} {target : Word} (h : s.angleOf i = target.toInt) (delay : Word) :
    s.sweepSegment i target delay = s.finish := by
  rw [State.sweepSegment, if_pos h]

/-- Settles O28: no servo, or a servo at its target, is the end at once. -/
theorem sweepWithoutDistanceDoesNothing : Obligations.SweepWithoutDistanceDoesNothing := by
  intro n target delay s hbusy h
  have key : exec (.sweep n target delay) s = .next (s.accept (.sweep n target delay)).finish := by
    rcases h with h | h | ⟨i, hn, hi⟩
    · exact exec_sweep_outside hbusy (.inl h) target delay
    · exact exec_sweep_outside hbusy (.inr h) target delay
    · rw [exec_sweep_servo hbusy hn]
      rw [← angleOf_congr (accept_angle (.sweep n target delay) s)] at hi
      rw [sweepSegment_at_target hi]
  exact ⟨_, key, accept_finish_does_nothing _ s⟩

/-! ### SETCH and SETANGLE -/

theorem exec_setch_channel {s : State} (h : s.busy = false) {ch : Word} {c : Channel} (hc : ch.toInt = (c.val : Int))
    (on off : Word) : exec (.setch ch on off) s =
      .next ((s.accept (.setch ch on off)).channelWrite c on.toInt off.toInt).finish := by
  rw [exec_accepts ⟨_, rfl⟩ h, firstSegment, hc, setChannel_channel]

/-- A channel write between acceptance and end has its effect on the image. -/
theorem channelWritten_command (i : Instr) (c : Channel) (on off : Int) (s : State) :
    ChannelWritten c on off s ((s.accept i).channelWrite c on off).finish where
  outside _ ha := channelWrite_read_outside c on off (s.accept i) ha
  inside hai := channelWrite_holds c on off (s := s.accept i) hai

/-- Settles O22: SETCH of a channel is that channel's write. -/
theorem setchWritesItsChannel : Obligations.SetchWritesItsChannel := by
  intro ch on off s hbusy
  refine ⟨fun c hc => ?channel, setchOfNoChannelDoesNothing ch on off s hbusy⟩
  have written := channelWritten_command (.setch ch on off) c on.toInt off.toInt s
  obtain ⟨hcompleted, hregisters, hwatchers, henv⟩ :=
    (busEffect_channelWrite c on.toInt off.toInt (s.accept (.setch ch on off))).completes
  exact ⟨_, exec_setch_channel hbusy hc on off, hcompleted, hregisters, hwatchers, henv, written,
    fun hai hon hoff => ⟨(written.inside hai).onTick hon, (written.inside hai).offTick hoff⟩⟩

theorem exec_setangle_servo {s : State} (h : s.busy = false) {n : Word} {i : Servo} (hn : n.toInt = (i.val : Int) + 1)
    (deg : Word) : exec (.setangle n deg) s =
      .next ((s.accept (.setangle n deg)).channelWrite (servoChannel i) 0 (ticks deg.toInt)).finish := by
  have hi : n.toInt = servoNumber i := hn
  rw [exec_accepts ⟨_, rfl⟩ h, firstSegment, hi, driveServo_number]

theorem exec_setangle_outside {s : State} (h : s.busy = false) {n : Word} (hn : n.toInt < 1 ∨ n.toInt > 8) (deg : Word) :
    exec (.setangle n deg) s = .next (s.accept (.setangle n deg)).finish := by
  rw [exec_accepts ⟨_, rfl⟩ h, firstSegment, driveServo_outside hn]

/-- The channel of servo s starts at 0x26 + 4 (s - 1) (20_memory R71). -/
theorem servoItem_eq (i : Servo) (deg : Int) : servoItem i deg = .write Config.pwmAddr
    [BitVec.ofNat 8 (0x26 + 4 * i.val), 0x00#8, 0x00#8, lo8 (ticks deg), hi8 (ticks deg)] := by
  have h : chreg (servoChannel i) = BitVec.ofNat 8 (0x26 + 4 * i.val) := by
    simp only [chreg, servoChannel]
    congr 1
    omega
  rw [servoItem, channelItem, h]
  rfl

/-- Settles O26: SETANGLE of a servo is the write of its channel. -/
theorem setangleDrivesItsServo : Obligations.SetangleDrivesItsServo := by
  intro n deg s hbusy
  refine ⟨fun i hn => ?servo, fun hn => ⟨_, exec_setangle_outside hbusy hn deg, accept_finish_does_nothing _ s⟩⟩
  have effect := busEffect_channelWrite (servoChannel i) 0 (ticks deg.toInt) (s.accept (.setangle n deg))
  rw [← servoItem, servoItem_eq] at effect
  obtain ⟨hcompleted, hregisters, hwatchers, henv⟩ := effect.completes
  exact ⟨_, exec_setangle_servo hbusy hn deg, hcompleted, hregisters, hwatchers, henv, channelWritten_command ..⟩

/-! ### RUN and LFSTEP -/

/-- Two channel writes of which the first is a zero (42_drive R184). -/
def State.writePair (zero other : Channel) (v : Int) (s : State) : State :=
  (s.channelWrite zero 0 0).channelWrite other 0 v

theorem busEffect_writePair (zero other : Channel) (v : Int) (s : State) :
    BusEffect [channelItem zero 0 0, channelItem other 0 v] s (s.writePair zero other v) :=
  (busEffect_channelWrite zero 0 0 s).trans (busEffect_channelWrite other 0 v _)

theorem writePair_outside (zero other : Channel) (v : Int) (s : State) :
    SameImageOutside (fun a => InChannel zero a ∨ InChannel other a) s (s.writePair zero other v) := by
  intro a ha
  rw [not_or] at ha
  rw [State.writePair, channelWrite_read_outside _ _ _ _ ha.2, channelWrite_read_outside _ _ _ _ ha.1]

@[simp] theorem writePair_autoIncrement (zero other : Channel) (v : Int) (s : State) :
    autoIncrement (s.writePair zero other v).image = autoIncrement s.image := by
  simp [State.writePair]

theorem writePair_holds {zero other : Channel} (hne : zero ≠ other) (v : Int) {s : State}
    (h : autoIncrement s.image = true) :
    ChannelHolds (s.writePair zero other v).image zero 0 0 ∧ ChannelHolds (s.writePair zero other v).image other 0 v :=
  ⟨(channelWrite_holds zero 0 0 h).channelWrite_other hne _ _, channelWrite_holds other 0 v (by simpa using h)⟩

/-- RUN on a motor's own channels: the zero first, on the reverse channel for a speed that is not negative (42_drive
R180). -/
theorem driveMotor_channels {m speed v : Int} {k : Fin 4} {fwd rev : Channel} (hm : m = (k.val : Int) + 1)
    (hf : fwd.val = 2 * k.val) (hr : rev.val = 2 * k.val + 1) (hv : v = driveTicks speed) (s : State) :
    s.driveMotor m speed = if 0 ≤ v then s.writePair rev fwd v else s.writePair fwd rev (-v) := by
  have hfwd : forwardChannel m = (fwd.val : Int) := by unfold forwardChannel; omega
  have hrev : reverseChannel m = (rev.val : Int) := by unfold reverseChannel; omega
  subst hv
  split
  next h =>
    rw [driveMotor_forward (by omega) h, hfwd, hrev, setChannel_channel, setChannel_channel, State.writePair]
  next h =>
    rw [driveMotor_reverse (by omega) (by omega), hfwd, hrev, setChannel_channel, setChannel_channel, State.writePair]

/-- What RUN does to a motor's two channels. -/
structure Driven (fwd rev : Channel) (v : Int) (s t : State) : Prop where
  effect : BusEffect (if 0 ≤ v then [channelItem rev 0 0, channelItem fwd 0 v] else
    [channelItem fwd 0 0, channelItem rev 0 (-v)]) s t
  outside : SameImageOutside (fun a => InChannel fwd a ∨ InChannel rev a) s t
  autoIncrement : Machine.autoIncrement t.image = Machine.autoIncrement s.image
  holds : Machine.autoIncrement s.image = true →
    ChannelHolds t.image fwd 0 (max v 0) ∧ ChannelHolds t.image rev 0 (max (-v) 0)

theorem driven_driveMotor {m speed v : Int} {k : Fin 4} {fwd rev : Channel} (hm : m = (k.val : Int) + 1)
    (hf : fwd.val = 2 * k.val) (hr : rev.val = 2 * k.val + 1) (hv : v = driveTicks speed) (s : State) :
    Driven fwd rev v s (s.driveMotor m speed) := by
  have hne : fwd ≠ rev := fun e => by have := congrArg Fin.val e; omega
  rw [driveMotor_channels hm hf hr hv]
  split
  next h =>
    refine ⟨?_, fun a ha => writePair_outside rev fwd v s a fun e => ha e.symm, by simp, fun hai => ?_⟩
    · rw [if_pos h]; exact busEffect_writePair rev fwd v s
    · obtain ⟨hrev, hfwd⟩ := writePair_holds hne.symm v hai
      rw [max_eq_left h, max_eq_right (by omega)]
      exact ⟨hfwd, hrev⟩
  next h =>
    refine ⟨?_, writePair_outside fwd rev (-v) s, by simp, fun hai => ?_⟩
    · rw [if_neg h]; exact busEffect_writePair fwd rev (-v) s
    · rw [max_eq_right (by omega), max_eq_left (by omega)]
      exact writePair_holds hne (-v) hai

theorem exec_run_accepts {s : State} (h : s.busy = false) (m speed : Word) :
    exec (.run m speed) s = .next ((s.accept (.run m speed)).driveMotor m.toInt speed.toInt).finish :=
  exec_accepts ⟨_, rfl⟩ h

/-- Settles O38: RUN of a motor is two writes, the zero first. -/
theorem runWritesTheZeroFirst : Obligations.RunWritesTheZeroFirst := by
  intro m speed s hbusy
  refine ⟨fun k fwd rev v hm hf hr hv => ?motor, runOfNoMotorDoesNothing m speed s hbusy⟩
  have driven := driven_driveMotor (v := v) hm hf hr (by rw [hv, Int.mul_comm]; rfl) (s.accept (.run m speed))
  obtain ⟨hcompleted, hregisters, hwatchers, henv⟩ := driven.effect.completes
  exact ⟨_, exec_run_accepts hbusy m speed, hcompleted, hregisters, hwatchers, henv, driven.outside, driven.holds⟩

/-- Settles O40: of `v` and `-v` one is not positive. -/
theorem runNeverLeavesBothChannelsHigh : Obligations.RunNeverLeavesBothChannelsHigh := by
  intro m speed k fwd rev s t hbusy hm hf hr hai h
  rw [exec_run_accepts hbusy] at h
  cases h
  have driven := driven_driveMotor hm hf hr (Eq.refl (driveTicks speed.toInt)) (s.accept (.run m speed))
  obtain ⟨hfwd, hrev⟩ := driven.holds hai
  have hv := driveTicks_bounds speed.toInt
  exact ⟨_, _, hfwd.offTick (by omega), hrev.offTick (by omega), by omega, by omega, by omega⟩

/-- A speed of LFSTEP is scaled without a clamp (42_drive R181, R190). -/
theorem driveTicks_of_lineFollow {speed : Int} (h : 0 ≤ speed ∧ speed ≤ 255) : driveTicks speed = 16 * speed := by
  rw [driveTicks, clamp_inside (by omega), Int.mul_comm]

theorem toInt_eq_zero {w : Word} : w.toInt = 0 ↔ w = 0#16 := by
  rw [← BitVec.toInt_inj]
  rfl

/-- The decision table as the obligation writes it (42_drive R187, R188). -/
theorem lineFollow_eq (sp : Int) (left right : Word) : lineFollow sp left.toInt right.toInt =
    if left = 0#16 then if right = 0#16 then (sp, sp) else (0, sp) else if right = 0#16 then (sp, 0) else (0, 0) := by
  simp only [lineFollow, toInt_eq_zero, lfReduced]

theorem lineFollow_bounds {sp : Int} (h : 0 ≤ sp ∧ sp ≤ 255) (left right : Int) :
    (0 ≤ (lineFollow sp left right).1 ∧ (lineFollow sp left right).1 ≤ 255) ∧
      (0 ≤ (lineFollow sp left right).2 ∧ (lineFollow sp left right).2 ≤ 255) := by
  unfold lineFollow
  split <;> split <;> simp [lfReduced, h]

/-- LFSTEP's two motors, each run forward: the writes, zero first, the bytes left alone and the counts (42_drive R187,
R189). -/
theorem driveBoth {l r : Int} (hl : 0 ≤ l ∧ l ≤ 255) (hr : 0 ≤ r ∧ r ≤ 255) (s : State) :
    BusEffect [channelItem 1 0 0, channelItem 0 0 (16 * l), channelItem 3 0 0, channelItem 2 0 (16 * r)] s
        ((s.driveMotor 1 l).driveMotor 2 r) ∧
      SameImageOutside (fun a => 0x06 ≤ a ∧ a < 0x16) s ((s.driveMotor 1 l).driveMotor 2 r) ∧
      (autoIncrement s.image = true →
        ChannelHolds ((s.driveMotor 1 l).driveMotor 2 r).image 0 0 (16 * l) ∧
        ChannelHolds ((s.driveMotor 1 l).driveMotor 2 r).image 1 0 0 ∧
        ChannelHolds ((s.driveMotor 1 l).driveMotor 2 r).image 2 0 (16 * r) ∧
        ChannelHolds ((s.driveMotor 1 l).driveMotor 2 r).image 3 0 0) := by
  have left := driven_driveMotor (m := 1) (k := 0) (fwd := 0) (rev := 1) rfl rfl rfl (driveTicks_of_lineFollow hl).symm s
  have right := driven_driveMotor (m := 2) (k := 1) (fwd := 2) (rev := 3) rfl rfl rfl (driveTicks_of_lineFollow hr).symm
    (s.driveMotor 1 l)
  refine ⟨?effect, fun a ha => ?outside, fun hai => ?holds⟩
  case effect =>
    have effect := left.effect.trans right.effect
    rwa [if_pos (by omega), if_pos (by omega)] at effect
  case outside =>
    have apart (c : Channel) (hc : c.val < 4) : ¬ InChannel c a := by unfold InChannel channelBase; omega
    rw [right.outside a (not_or.2 ⟨apart 2 (by decide), apart 3 (by decide)⟩),
      left.outside a (not_or.2 ⟨apart 0 (by decide), apart 1 (by decide)⟩)]
  case holds =>
    obtain ⟨h0, h1⟩ := left.holds hai
    obtain ⟨h2, h3⟩ := right.holds (left.autoIncrement.trans hai)
    rw [max_eq_left (by omega)] at h0 h2
    rw [max_eq_right (by omega)] at h1 h3
    have kept {c : Channel} (h2 : c ≠ 2) (h3 : c ≠ 3) {on off : Int} (h : ChannelHolds (s.driveMotor 1 l).image c on off) :=
      h.congr fun a ha => right.outside a (not_or.2 ⟨not_inChannel_of_ne h2 ha, not_inChannel_of_ne h3 ha⟩)
    exact ⟨kept (by decide) (by decide) h0, kept (by decide) (by decide) h1, h2, h3⟩

/-- Settles O41: LFSTEP runs motor 1 and then motor 2 at the speeds of the table. -/
theorem lfstepFollowsTheDecisionTable : Obligations.LfstepFollowsTheDecisionTable := by
  intro maxSpeed left right s sp l r hbusy hsp hlr
  rw [← lineFollow_eq] at hlr
  obtain ⟨hl, hr⟩ := lineFollow_bounds (sp := sp) (hsp ▸ clamp_bounds (by omega)) left.toInt right.toInt
  rw [← hlr] at hl hr
  have run : exec (.lfstep maxSpeed left right) s =
      .next (((s.accept (.lfstep maxSpeed left right)).driveMotor 1 l).driveMotor 2 r).finish := by
    rw [exec_accepts ⟨_, rfl⟩ hbusy, firstSegment, State.lineFollowStep, ← hsp, ← hlr]
    rfl
  obtain ⟨effect, outside, holds⟩ := driveBoth hl hr (s.accept (.lfstep maxSpeed left right))
  obtain ⟨hcompleted, hregisters, hwatchers, henv⟩ := effect.completes
  exact ⟨_, run, hcompleted, hregisters, hwatchers, henv, outside, holds⟩

end Sys2Proof.Machine
end

section
/-! PROOFS. The poll cycles as steps: the closed form of a cycle, read on the woken state. -/

namespace Sys2Proof.Machine

theorem Woken.ambientAnswer {t : Task} {s w : State} (h : Woken t s w) : w.ambientAnswer = s.ambientAnswer := by
  unfold State.ambientAnswer
  rw [h.env]

theorem Woken.colorAnswer {t : Task} {s w : State} (h : Woken t s w) : w.colorAnswer = s.colorAnswer := by
  unfold State.colorAnswer
  rw [h.env]

/-- The obligation's spelling of the events of a cycle (43_watchers R206). -/
theorem darkEvents_eq (sample : Word) (watch : List Watcher) : darkEvents sample watch =
    (watch.filter fun w => decide ((sample.toNat : Int) < w.thr.toInt) && !w.last).map
      (fun w => .event Config.evDark w.thr) :=
  rfl

/-- Settles O44: a step of DARK is a poll cycle on the woken state. -/
theorem darkpollRaisesRisingEdges : Obligations.DarkpollRaisesRisingEdges := by
  intro s s' hb hn
  have hw := woken_of_nextTask hn
  refine ⟨(s'.wakeUp .dark).darkPoll, step_of_nextTask hb hn, ?_⟩
  rw [darkPoll_eq, hw.ambientAnswer, hw.trace, hw.watch, hw.sleep]
  refine ⟨?trace, rfl, rfl, hw.angle, hw.darkRun, hw.colorRun, hw.lastColor, hw.busy, hw.seq, hw.image, hw.time.1, ?env⟩
  case trace => rw [darkEvents_eq]; rfl
  case env => dsimp only; rw [hw.env]; rfl

/-- Settles O45: a step of COLOR is a poll cycle on the woken state. -/
theorem colorpollRaisesOnChange : Obligations.ColorpollRaisesOnChange := by
  intro s s' hb hn
  have hw := woken_of_nextTask hn
  refine ⟨(s'.wakeUp .color).colorPoll, step_of_nextTask hb hn, ?_⟩
  rw [colorPoll_eq, hw.colorAnswer, hw.trace, hw.lastColor, hw.sleep]
  refine ⟨?trace, rfl, rfl, hw.angle, ⟨hw.watch, hw.darkRun, hw.colorRun⟩, hw.busy, hw.seq, hw.image, hw.time.1, ?env⟩
  case trace => rw [List.singleton_append]; rfl
  case env => dsimp only; rw [hw.env]; rfl

end Sys2Proof.Machine
end

section
/-! PROOFS. The invariant of the block. It has four parts that are kept apart: the image (`ImageLegal`), `LASTCOLOR`, BUSY
with `SEQ` and the angles (`SeqInv`), and the watchers (`WatchersLegal`). A command is accepted with BUSY 1 and `SEQ` Idle,
so the third part holds again only at the end of its first segment. -/

namespace Sys2Proof.Machine

/-! ### The parts of the invariant -/

/-- The image is canonical, with a byte at each described offset and at no other (10_state R30). -/
structure ImageLegal (m : Memory) : Prop where
  canonical : Memory.wf m
  described : Memory.described m
  complete : Memory.complete m

/-- BUSY is 1 exactly while `SEQ` is not Idle, and `SEQ` is legal (10_state R38, R40). -/
structure SeqInv (s : State) : Prop where
  busySeq : s.busy = true ↔ s.seq ≠ .idle
  legal : SeqLegal s

/-- The table is within its capacity, and empty before the first registration (10_state R35). -/
structure WatchersLegal (s : State) : Prop where
  capacity : ∀ n, Config.nwatch = some n → s.wcount ≤ n
  started : s.darkRun = .idle → s.watch = []

theorem Inv.image {s : State} (h : Inv s) : ImageLegal s.image := ⟨h.imageCanonical, h.imageDescribed, h.imageComplete⟩
theorem Inv.seq {s : State} (h : Inv s) : SeqInv s := ⟨h.busySeq, h.seqLegal⟩
theorem Inv.watchers {s : State} (h : Inv s) : WatchersLegal s := ⟨h.capacity, h.started⟩

theorem Inv.of_parts {s : State} (image : ImageLegal s.image) (lastColor : s.lastColor ∈ Config.colors) (seq : SeqInv s)
    (watchers : WatchersLegal s) : Inv s :=
  ⟨image.canonical, image.described, image.complete, lastColor, seq.busySeq, seq.legal, watchers.capacity,
    watchers.started⟩

/-- `SEQ` is as legal in every state with the same angles, BUSY and `SEQ`. -/
theorem SeqInv.congr {s t : State} (h : SeqInv s) (hangle : t.angle = s.angle) (hbusy : t.busy = s.busy)
    (hseq : t.seq = s.seq) : SeqInv t := by
  refine ⟨by rw [hbusy, hseq]; exact h.busySeq, ?_⟩
  have legal := h.legal
  unfold SeqLegal at legal ⊢
  rw [hseq]
  split <;> simp_all [angleOf_congr hangle]

theorem WatchersLegal.congr {s t : State} (h : WatchersLegal s) (hw : SameWatchers s t) : WatchersLegal t :=
  ⟨by unfold State.wcount; rw [hw.watch]; exact h.capacity, by rw [hw.watch, hw.darkRun]; exact h.started⟩

/-! ### The image -/

theorem imageLegal_kept : KeptByChannelWrites ImageLegal := fun m ch bs hb h =>
  ⟨wf_kept m ch bs hb h.canonical, described_kept m ch bs hb h.described, complete_kept m ch bs hb h.complete⟩

theorem ImageLegal.write {m : Memory} (h : ImageLegal m) {a : Nat} (ha : describedOffset a = true) (b : Byte) :
    ImageLegal (Memory.write m a b) :=
  ⟨Memory.wf_write h.canonical a b, Memory.described_write h.described ha b, Memory.complete_writeBytes [b] h.complete a⟩

theorem describedOffset_ctrlOffset (reg : CtrlReg) : describedOffset (ctrlOffset reg).toNat = true := by
  cases reg <;> rfl

theorem firstSegment_imageLegal (i : Instr) {s : State} (h : ImageLegal s.image) : ImageLegal (firstSegment i s).image := by
  refine firstSegment_keeps imageLegal_kept h (fun _ => ?init) fun reg v _ => ?regwrite
  case init =>
    rw [firstSegment, finish_image]
    exact initialize_keeps imageLegal_kept ((((h.write rfl _).write rfl _).write rfl _).write rfl _)
  case regwrite => rw [regWrite_image]; exact h.write (describedOffset_ctrlOffset reg) v

/-! ### The watchers -/

theorem registerDark_watchersLegal (thr : Word) {s : State} (h : WatchersLegal s) : WatchersLegal (s.registerDark thr) where
  capacity n hn := by
    have := h.capacity n hn
    unfold State.wcount at *
    rw [registerDark_watch_of_capacity hn]
    unfold State.wcount
    split
    · rw [List.length_append]; simp only [List.length_singleton]; omega
    · exact this
  started h := by cases h

theorem firstSegment_watchersLegal (i : Instr) {s : State} (h : WatchersLegal s) : WatchersLegal (firstSegment i s) := by
  by_cases hi : ∃ thr, i = .wdark thr
  · obtain ⟨thr, rfl⟩ := hi
    exact (registerDark_watchersLegal thr h).congr ⟨rfl, rfl, rfl⟩
  · obtain ⟨hwatch, hdark⟩ := (firstSegment_ownWrites i s).dark fun thr e => hi ⟨thr, e⟩
    exact ⟨by unfold State.wcount; rw [hwatch]; exact h.capacity, by rw [hwatch, hdark]; exact h.started⟩

/-! ### `SEQ` and the angles -/

/-- A MOVESYNC whose lanes stand where its frame `k` puts them, for `k` = 0 at their starts. -/
structure MoveReady (m : Move) (s : State) : Prop where
  servos : m.lanes.map Lane.servo = Machine.servos.take m.lanes.length
  lanes : ∀ l ∈ m.lanes, l.Legal m.steps
  steps : m.steps = maxAbsDelta m.lanes
  frameDelay : 1 ≤ m.frameDelay
  moving : 1 ≤ m.steps
  inside : m.k ≤ m.steps
  stand : ∀ l ∈ m.lanes, s.angleOf l.servo = framePosition l.start l.delta m.k m.steps

theorem moveReady_of_seqLegal {s : State} {m : Move} (hs : s.seq = .move m) (h : SeqLegal s) : MoveReady m s := by
  unfold SeqLegal at h
  rw [hs] at h
  obtain ⟨legal, stand⟩ := h
  exact ⟨legal.servos, legal.lanes, legal.steps, legal.frameDelay, legal.begun.trans legal.inside, legal.inside, stand⟩

theorem MoveReady.nodup {m : Move} {s : State} (h : MoveReady m s) : (m.lanes.map Lane.servo).Nodup :=
  nodup_of_servos h.servos

/-- A frame position of a legal lane fits the register (10_state R22). -/
theorem Lane.Legal.framePosition_bounds {l : Lane} {k steps : Nat} (h : l.Legal steps) (hs : 1 ≤ steps) (hk : k ≤ steps) :
    -32768 ≤ framePosition l.start l.delta k steps ∧ framePosition l.start l.delta k steps ≤ 32767 := by
  have ht := h.target
  have hd := h.delta
  unfold legalAngle at ht
  exact framePosition_mem hs hk ⟨h.startLow, h.startHigh⟩ (by omega)

/-- Where frame `k` leaves a lane is its position in that frame, with a delta or without (41_servo R167). -/
theorem MoveReady.frame_angle {m : Move} {s : State} (h : MoveReady m s) (k : Nat) {l : Lane} (hl : l ∈ m.lanes) :
    (if l.delta = 0 then s.angleOf l.servo else framePosition l.start l.delta k m.steps) =
      framePosition l.start l.delta k m.steps := by
  split
  next hd => rw [h.stand l hl, hd, framePosition_still _ _ h.moving, framePosition_still _ _ h.moving]
  next => rfl

/-- After the next frame every lane stands at its position in it. -/
theorem MoveReady.next_stand {m : Move} {s : State} (h : MoveReady m s) (hk : m.k < m.steps) {l : Lane}
    (hl : l ∈ m.lanes) : (s.frameLanes (m.k + 1) m.steps m.lanes).angleOf l.servo =
      framePosition l.start l.delta (m.k + 1) m.steps := by
  rw [angleOf_frameLanes s h.nodup hl ((h.lanes l hl).framePosition_bounds h.moving hk), h.frame_angle _ hl]

theorem seqInv_finish (s : State) : SeqInv s.finish := by
  refine ⟨by simp, ?_⟩
  unfold SeqLegal
  rw [finish_seq]
  trivial

theorem moveSegment_seqInv {m : Move} {s : State} (hbusy : s.busy = true) (h : MoveReady m s) :
    SeqInv (s.moveSegment m) := by
  rcases moveSegment_cases m s with ⟨hk, e⟩ | ⟨_, e⟩ <;> rw [e]
  · have hseq : (State.pause .cmd m.frameDelay (State.frameLanes (m.k + 1) m.steps m.lanes
        { s with seq := .move { m with k := m.k + 1 } })).seq = .move { m with k := m.k + 1 } := by simp
    refine ⟨by rw [hseq]; simpa using hbusy, ?_⟩
    unfold SeqLegal
    rw [hseq]
    refine ⟨⟨h.servos, h.lanes, h.steps, h.frameDelay, Nat.succ_pos _, hk⟩, fun l hl => ?_⟩
    rw [angleOf_congr (pause_angle ..)]
    exact MoveReady.next_stand (s := { s with seq := .move { m with k := m.k + 1 } }) { h with } hk hl
  · exact seqInv_finish _

theorem sweepNext_bounds {a : Int} (target : Word) (ha : -32768 ≤ a ∧ a ≤ 32767) (h : a ≠ target.toInt) :
    -32768 ≤ sweepNext a target.toInt ∧ sweepNext a target.toInt ≤ 32767 :=
  sweepNext_mem h ha (toInt_bounds target)

/-- One degree of SWEEP moves its servo to the next angle (41_servo R155). -/
theorem angleOf_moveServo_sweepNext {s u : State} (i j : Servo) {target : Word} (hu : u.angle = s.angle)
    (h : s.angleOf i ≠ target.toInt) : (u.moveServo i (sweepNext (s.angleOf i) target.toInt)).angleOf j =
      if j = i then sweepNext (s.angleOf i) target.toInt else s.angleOf j := by
  rw [angleOf_moveServo i j (sweepNext_bounds target (angleOf_bounds i s) h), angleOf_congr hu]

theorem sweepSegment_seqInv {s : State} (hbusy : s.busy = true) (i : Servo) (target delay : Word) :
    SeqInv (s.sweepSegment i target delay) := by
  rcases sweepSegment_cases i target delay s with ⟨_, e⟩ | ⟨ha, p, rfl, ⟨_, e⟩ | ⟨hn, e⟩⟩ <;> rw [e]
  · exact seqInv_finish s
  · exact seqInv_finish _
  · refine ⟨by simp [hbusy], ?_⟩
    unfold SeqLegal
    have moved := angleOf_moveServo_sweepNext (s := s) (u := { s with seq := .sweep i target delay }) i i rfl ha
    rw [pause_seq, moveServo_seq]
    dsimp only
    rwa [angleOf_congr (pause_angle ..), moved, if_pos rfl]

/-- The plan of an animated MOVESYNC, before its first frame (41_servo R160 to R164). -/
def State.plan (dur : Int) (targets : List Word) (s : State) : Move where
  lanes := s.planLanes targets
  steps := maxAbsDelta (s.planLanes targets)
  frameDelay := frameDelayOf dur (maxAbsDelta (s.planLanes targets))
  k := 0

theorem moveReady_plan {targets : List Word} {s : State} (ht : targets.length ≤ 8) (dur : Int)
    (h : 1 ≤ maxAbsDelta (s.planLanes targets)) : MoveReady (s.plan dur targets) s where
  servos := by rw [State.plan, planLanes_length ht, planLanes_servos ht]
  lanes l hl := by
    obtain ⟨hstart, htarget, hdelta⟩ := mem_planLanes hl
    obtain ⟨hlow, hhigh⟩ := angleOf_bounds l.servo s
    exact ⟨htarget, hdelta, hstart ▸ hlow, hstart ▸ hhigh, natAbs_le_maxAbsDelta hl⟩
  steps := rfl
  frameDelay := Nat.le_max_left _ _
  moving := h
  inside := Nat.zero_le _
  stand l hl := by
    rw [State.plan, framePosition_first _ _ h, (mem_planLanes hl).1]

theorem moveStart_seqInv {s : State} (hbusy : s.busy = true) (dur : Int) {targets : List Word} (ht : targets.length ≤ 8) :
    SeqInv (s.moveStart dur targets) := by
  rcases moveStart_cases dur targets s with ⟨_, e⟩ | ⟨h, _, e⟩ <;> rw [e]
  · exact seqInv_finish _
  · exact moveSegment_seqInv hbusy (moveReady_plan ht dur h)

theorem firstSegment_seqInv {i : Instr} (hi : IsCommand i) {s : State} (hbusy : s.busy = true) :
    SeqInv (firstSegment i s) := by
  cases i with
  | sweep n target delay =>
    rcases firstSegment_sweep_cases n target delay s with ⟨j, _, e⟩ | ⟨_, e⟩ <;> rw [e]
    · exact sweepSegment_seqInv hbusy j target delay
    · exact seqInv_finish s
  | movesync dur targets =>
    rcases firstSegment_movesync_cases dur targets s with ⟨ht, e⟩ | ⟨_, e⟩ <;> rw [e]
    · exact moveStart_seqInv hbusy _ ht
    · exact seqInv_finish s
  | chwrite | regwrite => obtain ⟨words, hw⟩ := hi; cases hw
  | init | setch | setangle | run | lfstep | wdark | wcolor | reserved => exact seqInv_finish _

theorem resume_seqInv {s : State} (hbusy : s.busy = true) (h : SeqInv s) : SeqInv s.resume := by
  unfold State.resume
  split
  next => exact seqInv_finish s
  next i target delay _ => exact sweepSegment_seqInv hbusy i target delay
  next m hm => exact moveSegment_seqInv hbusy (moveReady_of_seqLegal hm h.legal)

/-! ### Every step -/

theorem Woken.inv {t : Task} {s w : State} (h : Woken t s w) (hs : Inv s) : Inv w :=
  .of_parts (by rw [h.image]; exact hs.image) (by rw [h.lastColor]; exact hs.lastColor)
    (hs.seq.congr h.angle h.busy h.seq) (hs.watchers.congr h.sameWatchers)

theorem payload_inv {i : Instr} (hi : ¬ IsCommand i) {s : State} (h : Inv s) : Inv (firstSegment i s) := by
  obtain ⟨hr, hw, hbusy, hseq, _⟩ := payload_frame hi s
  exact .of_parts (firstSegment_imageLegal i h.image) (by rw [hr.lastColor]; exact h.lastColor)
    (h.seq.congr hr.angle hbusy hseq) (h.watchers.congr hw)

theorem darkPoll_inv {s : State} (hrun : s.darkRun = .running) (h : Inv s) : Inv s.darkPoll := by
  rw [darkPoll_eq]
  refine .of_parts h.image h.lastColor (h.seq.congr rfl rfl rfl) ⟨fun n hn => ?capacity, fun hidle => ?started⟩
  case capacity =>
    unfold State.wcount
    rw [polled_length]
    exact h.capacity n hn
  case started => exact absurd (hrun.symm.trans hidle) (by simp)

theorem colorPoll_inv {s : State} (h : Inv s) : Inv s.colorPoll := by
  rw [colorPoll_eq]
  exact .of_parts h.image (colorAnswer_mem s) (h.seq.congr rfl rfl rfl) (h.watchers.congr ⟨rfl, rfl, rfl⟩)

theorem resume_inv {s : State} (hbusy : s.busy = true) (h : Inv s) : Inv s.resume :=
  have frame := resume_motionFrame s
  .of_parts (resume_keeps imageLegal_kept h.image) (by rw [frame.lastColor]; exact h.lastColor)
    (resume_seqInv hbusy h.seq) (h.watchers.congr frame.watchers)

theorem accept_inv {i : Instr} (hi : IsCommand i) {s : State} (h : Inv s) : Inv (firstSegment i (s.accept i)) :=
  .of_parts (firstSegment_imageLegal i h.image)
    (by rw [(firstSegment_ownWrites i _).lastColor, accept_lastColor]; exact h.lastColor)
    (firstSegment_seqInv hi (accept_busy i s))
    (firstSegment_watchersLegal i (h.watchers.congr (sameWatchers_accept i s)))

/-- Only the angles, BUSY, `SEQ`, the image and the watchers' registers matter to the invariant. -/
theorem Inv.withEnv {s : State} (h : Inv s) (e : Env) : Inv { s with env := e } :=
  .of_parts h.image h.lastColor (h.seq.congr rfl rfl rfl) (h.watchers.congr ⟨rfl, rfl, rfl⟩)

/-- Settles O48: each way a step can go keeps each part of the invariant. -/
theorem everyStepKeepsTheInvariant : Obligations.EveryStepKeepsTheInvariant := by
  intro s t hs h
  rcases step_inversion h with ⟨_, rest, i, _, _, hi, rfl⟩ | ⟨_, _, rfl⟩ | ⟨task, s', _, _, hw, hran⟩
  · exact payload_inv hi (hs.withEnv _)
  · exact hs
  · have inv := hw.inv hs
    cases hran with
    | dark hrun => exact darkPoll_inv (hw.darkRun.trans hrun) inv
    | color => exact colorPoll_inv inv
    | resume hbusy => exact resume_inv (hw.busy.trans hbusy) inv
    | accept _ _ _ hi => exact accept_inv hi (inv.withEnv _)

/-! ### Angles in range -/

/-- The angles are in range, and what is in progress will keep them there (10_state R22). -/
structure InRange (s : State) : Prop where
  angles : AnglesInRange s
  seq : SeqInRange s

theorem InRange.congr {s t : State} (h : InRange s) (hangle : t.angle = s.angle) (hseq : t.seq = s.seq) : InRange t :=
  ⟨fun i => by rw [angleOf_congr hangle]; exact h.angles i, by unfold SeqInRange; rw [hseq]; exact h.seq⟩

theorem inRange_finish {s : State} (h : AnglesInRange s) : InRange s.finish :=
  ⟨h, by unfold SeqInRange; rw [finish_seq]; trivial⟩

theorem sweepSegment_inRange {s : State} (h : AnglesInRange s) (i : Servo) {target : Word} (ht : legalAngle target.toInt)
    (delay : Word) : InRange (s.sweepSegment i target delay) := by
  have moved {u : State} (hu : u.angle = s.angle) (ha : s.angleOf i ≠ target.toInt) :
      AnglesInRange (u.moveServo i (sweepNext (s.angleOf i) target.toInt)) := fun j => by
    rw [angleOf_moveServo_sweepNext i j hu ha]
    split
    · exact sweepNext_mem ha (h i) ht
    · exact h j
  rcases sweepSegment_cases i target delay s with ⟨_, e⟩ | ⟨ha, p, rfl, ⟨_, e⟩ | ⟨_, e⟩⟩ <;> rw [e]
  · exact inRange_finish h
  · exact inRange_finish (moved rfl ha)
  · refine ⟨moved rfl ha, ?_⟩
    unfold SeqInRange
    rw [pause_seq, moveServo_seq]
    exact ht

/-- A servo drives a lane, or has none. -/
theorem exists_lane_or_none (lanes : List Lane) (i : Servo) :
    (∃ l ∈ lanes, l.servo = i) ∨ ∀ l ∈ lanes, l.servo ≠ i := by
  by_cases h : ∃ l ∈ lanes, l.servo = i
  · exact .inl h
  · exact .inr fun l hl e => h ⟨l, hl, e⟩

theorem snapLanes_anglesInRange {lanes : List Lane} {s : State} (h : AnglesInRange s) (hn : (lanes.map Lane.servo).Nodup)
    (ht : ∀ l ∈ lanes, legalAngle l.target) : AnglesInRange (s.snapLanes lanes) := fun i => by
  rcases exists_lane_or_none lanes i with ⟨l, hl, rfl⟩ | hi
  · rw [angleOf_snapLanes s hn ht hl]; exact ht l hl
  · rw [angleOf_snapLanes_other lanes s hi]; exact h i

theorem MoveReady.frameLanes_anglesInRange {m : Move} {s : State} (hm : MoveReady m s) (h : AnglesInRange s)
    (hs : ∀ l ∈ m.lanes, legalAngle l.start) (hk : m.k < m.steps) :
    AnglesInRange (s.frameLanes (m.k + 1) m.steps m.lanes) := fun i => by
  rcases exists_lane_or_none m.lanes i with ⟨l, hl, rfl⟩ | hi
  · rw [hm.next_stand hk hl]
    have ht := (hm.lanes l hl).target
    have hd := (hm.lanes l hl).delta
    refine framePosition_mem hm.moving hk (hs l hl) ?_
    unfold legalAngle at ht
    omega
  · rw [angleOf_frameLanes_other _ _ m.lanes s hi]; exact h i

theorem moveSegment_inRange {m : Move} {s : State} (hm : MoveReady m s) (h : AnglesInRange s)
    (hs : ∀ l ∈ m.lanes, legalAngle l.start) : InRange (s.moveSegment m) := by
  rcases moveSegment_cases m s with ⟨hk, e⟩ | ⟨_, e⟩ <;> rw [e]
  · refine ⟨?angles, ?seq⟩
    case angles =>
      exact MoveReady.frameLanes_anglesInRange (s := { s with seq := .move { m with k := m.k + 1 } }) { hm with } h hs hk
    case seq =>
      unfold SeqInRange
      rw [pause_seq, frameLanes_seq]
      exact hs
  · exact inRange_finish (snapLanes_anglesInRange h hm.nodup fun l hl => (hm.lanes l hl).target)

theorem moveStart_inRange {s : State} (h : AnglesInRange s) (dur : Int) {targets : List Word} (ht : targets.length ≤ 8) :
    InRange (s.moveStart dur targets) := by
  rcases moveStart_cases dur targets s with ⟨_, e⟩ | ⟨hd, _, e⟩ <;> rw [e]
  · exact inRange_finish (snapLanes_anglesInRange h
      (nodup_of_servos (by rw [planLanes_length ht, planLanes_servos ht])) fun l hl => (mem_planLanes hl).2.1)
  · exact moveSegment_inRange (moveReady_plan ht dur hd) h fun l hl => by rw [(mem_planLanes hl).1]; exact h l.servo

theorem resume_inRange {s : State} (hinv : Inv s) (h : InRange s) : InRange s.resume := by
  have hseq := h.seq
  unfold SeqInRange at hseq
  unfold State.resume
  split
  next => exact inRange_finish h.angles
  next i target delay hs => rw [hs] at hseq; exact sweepSegment_inRange h.angles i hseq delay
  next m hs =>
    rw [hs] at hseq
    exact moveSegment_inRange (moveReady_of_seqLegal hs hinv.seqLegal) h.angles hseq

theorem firstSegment_inRange {i : Instr} (hi : IsCommand i) (ht : TargetInRange i) {s : State} (h : AnglesInRange s) :
    InRange (firstSegment i s) := by
  cases i with
  | sweep n target delay =>
    rcases firstSegment_sweep_cases n target delay s with ⟨j, _, e⟩ | ⟨_, e⟩ <;> rw [e]
    · exact sweepSegment_inRange h j ht delay
    · exact inRange_finish h
  | movesync dur targets =>
    rcases firstSegment_movesync_cases dur targets s with ⟨hl, e⟩ | ⟨_, e⟩ <;> rw [e]
    · exact moveStart_inRange h _ hl
    · exact inRange_finish h
  | chwrite | regwrite => obtain ⟨words, hw⟩ := hi; cases hw
  | init | setch | setangle | run | lfstep | wdark | wcolor | reserved =>
    refine inRange_finish fun j => ?_
    rw [angleOf_congr (s := s) (by simp)]
    exact h j

theorem presented_eq {s : State} {packet rest : List Word} {i : Instr}
    (ht : takePacket s.env.cmdIn = some (packet, rest)) (hd : decode (.packet packet) = .ok i) : s.presented = some i := by
  simp only [State.presented, ht, hd]

/-- Settles O49: a SWEEP stays between two angles in range, and a MOVESYNC clamps its targets. -/
theorem inRangeSweepsKeepAnglesInRange : Obligations.InRangeSweepsKeepAnglesInRange := by
  intro s t hinv hangles hseq hduty h
  suffices range : InRange t from ⟨range.angles, range.seq⟩
  have range : InRange s := ⟨hangles, hseq⟩
  rcases step_inversion h with ⟨_, rest, i, _, _, hi, rfl⟩ | ⟨_, _, rfl⟩ | ⟨task, s', _, _, hw, hran⟩
  · obtain ⟨hr, _, _, hseq, _⟩ := payload_frame hi (s.withBusIn rest)
    exact range.congr hr.angle hseq
  · exact range
  · have woken := range.congr hw.angle hw.seq
    cases hran with
    | dark => rw [darkPoll_eq]; exact woken.congr rfl rfl
    | color => rw [colorPoll_eq]; exact woken.congr rfl rfl
    | resume => exact resume_inRange (hw.inv hinv) woken
    | accept _ ht hd hi => exact firstSegment_inRange hi (hduty _ (presented_eq ht hd)) woken.angles

end Sys2Proof.Machine
end

section
/-! PROOFS. SWEEP. One segment away from the target is a degree (`SweepStep`); the first segment takes it from the accepted
state, a later one from the woken state; and alone with the command sequencer the degrees follow one another to the
target. -/

namespace Sys2Proof.Machine

/-! ### One degree -/

/-- A segment of SWEEP has written the angle `a` and taken its pause; at the target the command has ended (41_servo R155,
R156; log entry 11). -/
structure SweepStep (i : Servo) (target delay : Word) (a : Int) (s t : State) : Prop where
  trace : t.trace = s.trace ++ ([servoItem i a, .pause .cmd (max delay.toInt 0).toNat] ++
    if a = target.toInt then [.done .cmd] else [])
  angle : AngleSet i a s t
  image : ChannelWritten (servoChannel i) 0 (ticks a) s t
  ended : a = target.toInt → Quiescent t
  goesOn : a ≠ target.toInt → t.busy = s.busy ∧ t.seq = .sweep i target delay
  frame : MotionFrame s t
  pause : t.sleep.cmd = .sleepingUntil (s.env.now + (max delay.toInt 0).toNat)

theorem toNat_eq_max (v : Int) : v.toNat = (max v 0).toNat := by omega

theorem channelWritten_moveServo (i : Servo) (a : Int) (s : State) :
    ChannelWritten (servoChannel i) 0 (ticks a) s (s.moveServo i a) where
  outside b hb := by rw [moveServo_image]; exact channelWrite_read_outside _ _ _ s hb
  inside hai := by rw [moveServo_image]; exact channelWrite_holds _ _ _ hai

theorem sweepSegment_step {s : State} {i : Servo} {target : Word} (h : s.angleOf i ≠ target.toInt) (delay : Word) :
    SweepStep i target delay (sweepNext (s.angleOf i) target.toInt) s (s.sweepSegment i target delay) := by
  have written := channelWritten_moveServo i (sweepNext (s.angleOf i) target.toInt)
    { s with seq := .sweep i target delay }
  have moved (j : Servo) := angleOf_moveServo_sweepNext (s := s) (u := { s with seq := .sweep i target delay }) i j rfl h
  have set {t : State} (ht : ∀ j, t.angleOf j = if j = i then sweepNext (s.angleOf i) target.toInt else s.angleOf j) :
      AngleSet i (sweepNext (s.angleOf i) target.toInt) s t :=
    ⟨by rw [ht, if_pos rfl], fun j hj => by rw [ht, if_neg hj]⟩
  have frame := sweepSegment_motionFrame i target delay s
  rcases sweepSegment_cases i target delay s with ⟨ha, _⟩ | ⟨_, p, rfl, ⟨hn, e⟩ | ⟨hn, e⟩⟩
  · exact absurd ha h
  · rw [e] at frame ⊢
    exact ⟨by simp [hn, toNat_eq_max delay.toInt], set moved, ⟨written.outside, written.inside⟩, fun _ => ⟨rfl, rfl⟩,
      fun hne => absurd hn hne, frame, by simp [toNat_eq_max delay.toInt]⟩
  · rw [e] at frame ⊢
    exact ⟨by simp [hn, toNat_eq_max delay.toInt], set moved, ⟨written.outside, written.inside⟩, fun he => absurd he hn,
      fun _ => by simp, frame, by simp [toNat_eq_max delay.toInt]⟩

/-- Settles O27: the first segment takes its degree from the accepted state. -/
theorem sweepTakesOneDegree : Obligations.SweepTakesOneDegree := by
  intro n target delay i s hbusy hn ha
  have ha' : (s.accept (.sweep n target delay)).angleOf i ≠ target.toInt := ha
  have seg := sweepSegment_step ha' delay
  refine ⟨_, exec_sweep_servo hbusy hn target delay, _, rfl, ?trace, ⟨seg.angle.this, seg.angle.others⟩,
    ⟨seg.image.outside, seg.image.inside⟩, seg.ended, seg.goesOn, (sameWatchers_accept _ s).trans seg.frame.watchers,
    seg.frame.lastColor, seg.frame.env, ?sleep⟩
  case trace => rw [seg.trace, accept_trace, List.append_assoc]; rfl
  case sleep => rw [seg.frame.sleep, seg.pause]; rfl

theorem resume_of_sweep {s : State} {i : Servo} {target delay : Word} (h : s.seq = .sweep i target delay) :
    s.resume = s.sweepSegment i target delay := by
  simp only [State.resume, h]

/-- A step of CMD while a command is in progress is its next segment, on the woken state (60_exceptions R242). -/
theorem step_resumes {s s' : State} (hb : s.env.busIn = []) (hn : s.nextTask = some (.cmd, s')) (hbusy : s.busy = true) :
    step s = .next (s'.wakeUp .cmd).resume := by
  have hw := (woken_of_nextTask hn).busy
  rw [step_of_nextTask hb hn]
  simp only [State.runTask, hw, hbusy, if_true]

/-- Settles O29: a later segment takes its degree from the woken state. -/
theorem sweepGoesOnOneDegree : Obligations.SweepGoesOnOneDegree := by
  intro s s' i target delay hb hn hbusy hseq ha
  have hw := woken_of_nextTask hn
  have hangle := angleOf_congr hw.angle
  have seg := sweepSegment_step (s := s'.wakeUp .cmd) (i := i) (target := target) (by rwa [hangle]) delay
  rw [hangle] at seg
  have henv := seg.frame.env
  rw [← resume_of_sweep (hw.seq.trans hseq)] at seg henv
  refine ⟨_, step_resumes hb hn hbusy, _, rfl, hw.trace ▸ seg.trace,
    ⟨seg.angle.this, fun j hj => (seg.angle.others j hj).trans (hangle j)⟩, ?image, seg.ended,
    fun hne => ⟨(seg.goesOn hne).1.trans (hw.busy.trans hbusy), (seg.goesOn hne).2⟩,
    hw.sameWatchers.trans seg.frame.watchers, seg.frame.lastColor.trans hw.lastColor, ?env, ?dark, ?color, ?pause⟩
  case image =>
    exact ⟨fun a hna => by rw [seg.image.outside a hna, hw.image], fun hai => seg.image.inside (by rwa [hw.image])⟩
  case env => rw [henv]; exact wakeUp_env_of_nextTask hn
  case dark => rw [seg.frame.sleep, hw.sleep]; rfl
  case color => rw [seg.frame.sleep, hw.sleep]; rfl
  case pause => rw [henv]; exact seg.pause

/-! ### Alone with the command sequencer -/

theorem coreRun_succ (M : Host.Core) {s t : M.State} (h : M.step s = .next t) (n : Nat) : M.run (n + 1) s = M.run n t := by
  rw [Host.Core.run, h]

theorem run_succ {s t : State} (h : step s = .next t) (n : Nat) :
    Host.Core.run Sys2Proof.core (n + 1) s = Host.Core.run Sys2Proof.core n t :=
  coreRun_succ Sys2Proof.core h n

/-- A segment of SWEEP or MOVESYNC leaves CMD alone if it was. -/
theorem CmdAlone.of_motionFrame {s t : State} (h : CmdAlone s) (hf : MotionFrame s t) : CmdAlone t :=
  ⟨hf.watchers.darkRun.trans h.darkRun, hf.watchers.colorRun.trans h.colorRun, by rw [hf.env]; exact h.busIn⟩

theorem CmdAlone.accept {s : State} (h : CmdAlone s) (i : Instr) : CmdAlone (s.accept i) :=
  ⟨h.darkRun, h.colorRun, h.busIn⟩

/-- Alone, a command in progress runs its next segment in each step. -/
theorem CmdAlone.step {s : State} (h : CmdAlone s) (hbusy : s.busy = true) :
    Machine.step s = .next (s.wakeUp .cmd).resume ∧ CmdAlone (s.wakeUp .cmd).resume := by
  have hl : s.liveTasks = [.cmd] := by
    rw [liveTasks_of_idle h.darkRun h.colorRun, State.cmdReady, hbusy]
    rfl
  have woken : CmdAlone (s.wakeUp .cmd) := ⟨h.darkRun, h.colorRun, h.busIn⟩
  exact ⟨step_resumes h.busIn (nextTask_of_singleton hl) hbusy, woken.of_motionFrame (resume_motionFrame _)⟩

/-- The angle of a SWEEP after `j + 1` degrees (41_servo R155). -/
def sweepAngle (a target : Int) (j : Nat) : Int := if target > a then a + (j + 1 : Nat) else a - (j + 1 : Nat)

/-- The items of `d` degrees: each angle's write with its pause (41_servo R158). -/
def sweepItems (i : Servo) (target : Int) (ms : Nat) (a : Int) (d : Nat) : List Item :=
  (List.range d).flatMap fun j => [servoItem i (sweepAngle a target j), .pause .cmd ms]

/-- The items of `d` degrees to the target are those of the first degree and those of the rest. -/
theorem sweepItems_succ (i : Servo) {target : Int} (ms : Nat) {a : Int} {d : Nat} (h : (target - a).natAbs = d + 1) :
    sweepItems i target ms a (d + 1) =
      [servoItem i (sweepNext a target), .pause .cmd ms] ++ sweepItems i target ms (sweepNext a target) d := by
  have first : sweepAngle a target 0 = sweepNext a target := by
    unfold sweepAngle sweepNext
    split <;> omega
  have rest (j : Nat) (hj : j < d) : sweepAngle a target (j + 1) = sweepAngle (sweepNext a target) target j := by
    unfold sweepAngle sweepNext
    split_ifs <;> omega
  rw [sweepItems, List.range_succ_eq_map, List.flatMap_cons, first, List.flatMap_map]
  congr 1
  refine List.flatMap_congr fun j hj => ?_
  rw [rest j (List.mem_range.1 hj)]

/-- Alone, a SWEEP away from its target takes its next degree in a step, no sooner than its pause ends. -/
theorem CmdAlone.step_sweep {s : State} (h : CmdAlone s) {i : Servo} {target delay : Word} (hbusy : s.busy = true)
    (hseq : s.seq = .sweep i target delay) (ha : s.angleOf i ≠ target.toInt) :
    ∃ w t, Machine.step s = .next t ∧ CmdAlone t ∧ Woken .cmd s w ∧
      SweepStep i target delay (sweepNext (s.angleOf i) target.toInt) w t := by
  have hw := woken_wakeUp .cmd s
  have hangle := angleOf_congr hw.angle
  obtain ⟨hstep, halone⟩ := h.step hbusy
  have seg := sweepSegment_step (s := s.wakeUp .cmd) (i := i) (target := target) (by rwa [hangle]) delay
  rw [← resume_of_sweep (hw.seq.trans hseq), hangle] at seg
  exact ⟨_, _, hstep, halone, hw, seg⟩

/-- A SWEEP that stands `n + 1` degrees from its target ends with its `n + 1`-th segment (41_servo R155). -/
theorem run_sweep {i : Servo} {target delay : Word} {n : Nat} {s : State} (halone : CmdAlone s) (hbusy : s.busy = true)
    (hseq : s.seq = .sweep i target delay) (hn : (target.toInt - s.angleOf i).natAbs = n + 1) :
    ∃ u, Host.Core.run Sys2Proof.core (n + 1) s = .next u ∧ Quiescent u ∧ AngleSet i target.toInt s u ∧
      u.trace = s.trace ++
        (sweepItems i target.toInt (max delay.toInt 0).toNat (s.angleOf i) (n + 1) ++ [.done .cmd]) ∧
      s.sleep.cmd.time + (n + 1) * (max delay.toInt 0).toNat ≤ u.sleep.cmd.time := by
  induction n generalizing s with
  | zero =>
    have ha : s.angleOf i ≠ target.toInt := by omega
    obtain ⟨w, t, hstep, _, hw, seg⟩ := halone.step_sweep hbusy hseq ha
    have hlast : sweepNext (s.angleOf i) target.toInt = target.toInt := by have := sweepNext_natAbs ha; omega
    refine ⟨t, run_succ hstep 0, seg.ended hlast, ⟨seg.angle.this.trans hlast, fun j hj => ?others⟩, ?trace, ?pause⟩
    case others => rw [seg.angle.others j hj, angleOf_congr hw.angle]
    case trace => rw [seg.trace, hw.trace, if_pos hlast, sweepItems_succ i _ hn]; rfl
    case pause =>
      have := hw.time.2
      rw [seg.pause]
      simp only [Wake.time, Sleeps.get] at *
      omega
  | succ n ih =>
    have ha : s.angleOf i ≠ target.toInt := by omega
    obtain ⟨w, t, hstep, halone', hw, seg⟩ := halone.step_sweep hbusy hseq ha
    have hnext := sweepNext_natAbs ha
    have hmore : sweepNext (s.angleOf i) target.toInt ≠ target.toInt := by omega
    obtain ⟨hbusy', hseq'⟩ := seg.goesOn hmore
    have ht : t.angleOf i = sweepNext (s.angleOf i) target.toInt := seg.angle.this
    obtain ⟨u, hrun, hquiet, hangle, htrace, htime⟩ :=
      ih halone' (hbusy'.trans (hw.busy.trans hbusy)) hseq' (by rw [ht]; omega)
    refine ⟨u, (run_succ hstep _).trans hrun, hquiet, ⟨hangle.this, fun j hj => ?others⟩, ?trace, ?pause⟩
    case others => rw [hangle.others j hj, seg.angle.others j hj, angleOf_congr hw.angle]
    case trace =>
      rw [htrace, seg.trace, hw.trace, if_neg hmore, ht, sweepItems_succ i _ hn]
      simp only [List.append_assoc, List.append_nil]
    case pause =>
      have := hw.time.2
      rw [seg.pause] at htime
      simp only [Wake.time, Sleeps.get] at *
      rw [Nat.succ_mul]
      omega

/-- Settles O30: the first segment is the one of O27, and the rest follow alone. -/
theorem sweepConvergesOnItsTarget : Obligations.SweepConvergesOnItsTarget := by
  intro n target delay i s t d hbusy halone hn hd h1 h
  have ha : (s.accept (.sweep n target delay)).angleOf i ≠ target.toInt := by
    rw [angleOf_congr (accept_angle _ s)]; omega
  have seg := sweepSegment_step ha delay
  rw [angleOf_congr (accept_angle _ s)] at ha seg
  rw [exec_sweep_servo hbusy hn target delay] at h
  injection h with h
  rw [h] at seg
  have hnext := sweepNext_natAbs ha
  have ht : t.angleOf i = sweepNext (s.angleOf i) target.toInt := seg.angle.this
  obtain ⟨d, rfl⟩ : ∃ k, d = k + 1 := ⟨d - 1, by omega⟩
  show ∃ u, Host.Core.run Sys2Proof.core d t = .next u ∧ Quiescent u ∧ AngleSet i target.toInt s u ∧
    u.trace = s.trace ++ commandItems (.sweep n target delay)
      (sweepItems i target.toInt (max delay.toInt 0).toNat (s.angleOf i) (d + 1)) ∧ _
  rw [sweepItems_succ i _ hd.symm]
  cases d with
  | zero =>
    have hlast : sweepNext (s.angleOf i) target.toInt = target.toInt := by omega
    refine ⟨t, rfl, seg.ended hlast, ⟨ht.trans hlast, seg.angle.others⟩, ?trace, ?pause⟩
    case trace => rw [seg.trace, if_pos hlast, accept_trace, List.append_assoc]; rfl
    case pause =>
      rw [Sleeps.get, seg.pause, Wake.time, accept_env]
      omega
  | succ d =>
    have hmore : sweepNext (s.angleOf i) target.toInt ≠ target.toInt := by omega
    obtain ⟨hbusy', hseq'⟩ := seg.goesOn hmore
    have halone' : CmdAlone t := (halone.accept _).of_motionFrame seg.frame
    obtain ⟨u, hrun, hquiet, hangle, htrace, htime⟩ := run_sweep halone' hbusy' hseq' (n := d) (by rw [ht]; omega)
    refine ⟨u, hrun, hquiet, ⟨hangle.this, fun j hj => (hangle.others j hj).trans (seg.angle.others j hj)⟩, ?trace, ?pause⟩
    case trace =>
      rw [htrace, seg.trace, if_neg hmore, ht, accept_trace, commandItems]
      simp only [List.append_assoc, List.append_nil, List.cons_append, List.nil_append]
    case pause =>
      rw [seg.pause, Wake.time, accept_env] at htime
      rw [Nat.succ_mul, Sleeps.get]
      omega

end Sys2Proof.Machine
end

section
/-! PROOFS. MOVESYNC. A snap and a frame are both a list of servos moved in order (`State.moveAll`); the lanes of a plan are
the servos with a target; one segment is a frame or the final snap; and alone with the command sequencer the frames follow
one another to the targets. -/

namespace Sys2Proof.Machine

/-! ### Servos moved in order -/

/-- Each servo of a list moved to its angle, in order. -/
def State.moveAll (moves : List (Servo × Int)) (s : State) : State := moves.foldl (fun s p => s.moveServo p.1 p.2) s

theorem snapLanes_eq_moveAll (lanes : List Lane) (s : State) :
    s.snapLanes lanes = s.moveAll (lanes.map fun l => (l.servo, l.target)) := by
  rw [State.snapLanes, State.moveAll, List.foldl_map]

/-- The servos a frame moves: those of the lanes with a delta (41_servo R167). -/
def frameMoves (k steps : Nat) (lanes : List Lane) : List (Servo × Int) :=
  (lanes.filter fun l => decide (l.delta ≠ 0)).map fun l => (l.servo, framePosition l.start l.delta k steps)

theorem frameLanes_eq_moveAll (k steps : Nat) (lanes : List Lane) (s : State) :
    s.frameLanes k steps lanes = s.moveAll (frameMoves k steps lanes) := by
  unfold State.frameLanes State.moveAll frameMoves
  induction lanes generalizing s with
  | nil => rfl
  | cons l lanes ih =>
    rw [List.foldl_cons, ih]
    by_cases hd : l.delta = 0 <;> simp [State.frameLane, hd]

theorem moveAll_cons (p : Servo × Int) (moves : List (Servo × Int)) (s : State) :
    s.moveAll (p :: moves) = (s.moveServo p.1 p.2).moveAll moves := rfl

theorem moveAll_read_outside {moves : List (Servo × Int)} {a : Nat} (s : State)
    (h : ∀ p ∈ moves, ¬ InChannel (servoChannel p.1) a) : (s.moveAll moves).image.read a = s.image.read a := by
  induction moves generalizing s with
  | nil => rfl
  | cons p moves ih =>
    rw [moveAll_cons, ih _ fun q hq => h q (List.mem_cons_of_mem _ hq)]
    exact (channelWritten_moveServo p.1 p.2 s).outside a (h p List.mem_cons_self)

/-- With auto-increment on, each servo moved once has its angle's count on its channel. -/
theorem moveAll_holds {moves : List (Servo × Int)} (hnodup : (moves.map Prod.fst).Nodup) {s : State}
    (hai : autoIncrement s.image = true) {i : Servo} {a : Int} (h : (i, a) ∈ moves) :
    ChannelHolds (s.moveAll moves).image (servoChannel i) 0 (ticks a) := by
  induction moves generalizing s with
  | nil => cases h
  | cons p moves ih =>
    rw [List.map_cons, List.nodup_cons] at hnodup
    rw [moveAll_cons]
    rcases List.mem_cons.1 h with rfl | h
    · refine ((channelWritten_moveServo i a s).inside hai).congr fun b hb => moveAll_read_outside _ fun q hq => ?_
      refine not_inChannel_of_ne (fun e => hnodup.1 ?_) hb
      rw [servoChannel_injective e]
      exact List.mem_map.2 ⟨q, hq, rfl⟩
    · exact ih hnodup.2 (moveServo_keeps (autoIncrement_kept true) p.1 p.2 hai) h

/-! ### Images of a snap and of a frame -/

theorem snapLanes_read_outside {lanes : List Lane} {a : Nat} (s : State)
    (h : ¬ ∃ l ∈ lanes, InChannel (servoChannel l.servo) a) : (s.snapLanes lanes).image.read a = s.image.read a := by
  rw [snapLanes_eq_moveAll]
  refine moveAll_read_outside s fun p hp hin => h ?_
  obtain ⟨l, hl, rfl⟩ := List.mem_map.1 hp
  exact ⟨l, hl, hin⟩

theorem snapLanes_holds {lanes : List Lane} (hnodup : (lanes.map Lane.servo).Nodup) {s : State}
    (hai : autoIncrement s.image = true) {l : Lane} (hl : l ∈ lanes) :
    ChannelHolds (s.snapLanes lanes).image (servoChannel l.servo) 0 (ticks l.target) := by
  rw [snapLanes_eq_moveAll]
  refine moveAll_holds ?_ hai (List.mem_map_of_mem hl)
  rw [List.map_map]
  exact hnodup

theorem frameLanes_read_outside {lanes : List Lane} {a : Nat} (k steps : Nat) (s : State)
    (h : ¬ InMovingChannels lanes a) : (s.frameLanes k steps lanes).image.read a = s.image.read a := by
  rw [frameLanes_eq_moveAll]
  refine moveAll_read_outside s fun p hp hin => h ?_
  obtain ⟨l, hl, rfl⟩ := List.mem_map.1 hp
  obtain ⟨hmem, hd⟩ := List.mem_filter.1 hl
  exact ⟨l, hmem, of_decide_eq_true hd, hin⟩

theorem frameLanes_holds {lanes : List Lane} (hnodup : (lanes.map Lane.servo).Nodup) (k steps : Nat) {s : State}
    (hai : autoIncrement s.image = true) {l : Lane} (hl : l ∈ lanes) (hd : l.delta ≠ 0) :
    ChannelHolds (s.frameLanes k steps lanes).image (servoChannel l.servo) 0
      (ticks (framePosition l.start l.delta k steps)) := by
  rw [frameLanes_eq_moveAll]
  refine moveAll_holds ?_ hai (List.mem_map_of_mem (List.mem_filter.2 ⟨hl, decide_eq_true hd⟩))
  rw [frameMoves, List.map_map]
  exact hnodup.sublist (List.filter_sublist.map _)

/-! ### The lanes of a plan -/

theorem planLanes_accept (i : Instr) (targets : List Word) (s : State) :
    (s.accept i).planLanes targets = s.planLanes targets := rfl

theorem planLanes_eq (targets : List Word) (s : State) : s.planLanes targets = List.zipWith
    (fun i w => Lane.mk i (clamp w.toInt 0 180) (s.angleOf i) (clamp w.toInt 0 180 - s.angleOf i))
    (List.finRange 8) targets := by
  rw [State.planLanes, servos_eq]
  rfl

/-- The lanes are those of the servos that have a target (41_servo R160). -/
theorem mem_planLanes_iff {targets : List Word} {s : State} {l : Lane} :
    l ∈ s.planLanes targets ↔ ∃ w, targets[l.servo.val]? = some w ∧ l = s.planLane l.servo w := by
  rw [State.planLanes, servos_eq, List.mem_iff_getElem?]
  constructor
  · rintro ⟨n, hn⟩
    rw [List.getElem?_zipWith_eq_some] at hn
    obtain ⟨i, w, hi, hw, rfl⟩ := hn
    obtain ⟨hlt, rfl⟩ := List.getElem?_eq_some_iff.1 hi
    exact ⟨w, by simpa [State.planLane] using hw, by simp [State.planLane]⟩
  · rintro ⟨w, hw, hl⟩
    refine ⟨l.servo.val, ?_⟩
    rw [List.getElem?_zipWith_eq_some]
    exact ⟨l.servo, w, by simp, hw, hl.symm⟩

theorem targetAngle_of_lane {targets : List Word} {s : State} {l : Lane} (h : l ∈ s.planLanes targets) :
    targetAngle targets s l.servo = l.target := by
  obtain ⟨w, hw, hl⟩ := mem_planLanes_iff.1 h
  rw [targetAngle, hw, hl]
  rfl

/-- A servo has a lane exactly when it has a target. -/
theorem inTargets_iff {targets : List Word} (s : State) {i : Servo} :
    InTargets targets i ↔ ∃ l ∈ s.planLanes targets, l.servo = i := by
  constructor
  · intro h
    exact ⟨s.planLane i targets[i.val], mem_planLanes_iff.2 ⟨_, List.getElem?_eq_getElem h, rfl⟩, rfl⟩
  · rintro ⟨l, hl, rfl⟩
    obtain ⟨w, hw, _⟩ := mem_planLanes_iff.1 hl
    exact (List.getElem?_eq_some_iff.1 hw).1

theorem targetAngle_of_no_target {targets : List Word} {i : Servo} (h : ¬ InTargets targets i) (s : State) :
    targetAngle targets s i = s.angleOf i := by
  rw [targetAngle, List.getElem?_eq_none (Nat.le_of_not_lt h)]

/-- The lanes at their targets and the other servos where they were is every servo at its target angle (41_servo R170). -/
theorem angleOf_eq_targetAngle {targets : List Word} {s t : State}
    (hlanes : ∀ l ∈ s.planLanes targets, t.angleOf l.servo = l.target)
    (hothers : ∀ i, (∀ l ∈ s.planLanes targets, l.servo ≠ i) → t.angleOf i = s.angleOf i) (i : Servo) :
    t.angleOf i = targetAngle targets s i := by
  rcases exists_lane_or_none (s.planLanes targets) i with ⟨l, hl, rfl⟩ | hi
  · rw [hlanes l hl, targetAngle_of_lane hl]
  · have hnone : ¬ InTargets targets i := fun h => by
      obtain ⟨l, hl, he⟩ := (inTargets_iff s).1 h
      exact hi l hl he
    rw [hothers i hi, targetAngle_of_no_target hnone]

theorem maxAbsDelta_planLanes (targets : List Word) (s : State) :
    maxAbsDelta (s.planLanes targets) = moveDistance targets s := by
  rw [maxAbsDelta, moveDistance, State.planLanes, List.map_zipWith]
  rfl

theorem planLanes_nodup {targets : List Word} (h : targets.length ≤ 8) (s : State) :
    ((s.planLanes targets).map Lane.servo).Nodup :=
  nodup_of_servos (by rw [planLanes_length h, planLanes_servos h])

/-! ### The snap -/

theorem exec_movesync_accepts {s : State} (h : s.busy = false) {targets : List Word} (ht : targets.length ≤ 8) (dur : Word) :
    exec (.movesync dur targets) s = .next ((s.accept (.movesync dur targets)).moveStart dur.toInt targets) := by
  rw [exec_accepts ⟨_, rfl⟩ h, firstSegment, if_pos ht]

theorem moveStart_of_snap {dur : Int} {targets : List Word} {s : State} (h : moveDistance targets s = 0 ∨ dur ≤ 0) :
    s.moveStart dur targets = (s.snapLanes (s.planLanes targets)).finish := by
  rw [← maxAbsDelta_planLanes] at h
  rcases moveStart_cases dur targets s with ⟨_, e⟩ | ⟨_, _, _⟩
  · exact e
  · omega

theorem angleOf_snapLanes_planLanes {targets : List Word} (ht : targets.length ≤ 8) (s : State) (i : Servo) :
    (s.snapLanes (s.planLanes targets)).angleOf i = targetAngle targets s i :=
  angleOf_eq_targetAngle
    (fun _ hl => angleOf_snapLanes s (planLanes_nodup ht s) (fun _ hl => (mem_planLanes hl).2.1) hl)
    (fun _ hi => angleOf_snapLanes_other _ s hi) i

theorem snapItems_eq (targets : List Word) (s : State) :
    (s.planLanes targets).map (fun l => servoItem l.servo l.target) =
      List.zipWith (fun i w => servoItem i (clamp w.toInt 0 180)) (List.finRange 8) targets := by
  rw [planLanes_eq, List.map_zipWith]

/-- Settles O31: the snap is one write for each planned lane. -/
theorem movesyncSnaps : Obligations.MovesyncSnaps := by
  intro dur targets s hbusy ht hsnap
  have hdist : moveDistance targets (s.accept (.movesync dur targets)) = 0 ∨ dur.toInt ≤ 0 := hsnap
  have run := exec_movesync_accepts hbusy ht dur
  rw [moveStart_of_snap hdist, planLanes_accept] at run
  have angles (i : Servo) : ((s.accept (.movesync dur targets)).snapLanes (s.planLanes targets)).angleOf i =
      targetAngle targets s i := angleOf_snapLanes_planLanes ht (s.accept (.movesync dur targets)) i
  have frame := snapLanes_finish_motionFrame (s.planLanes targets) (s.accept (.movesync dur targets))
  refine ⟨_, run, ⟨?trace, rfl, rfl⟩, angles, fun a ha => ?outside, fun hai i hi => ?holds,
    (sameWatchers_accept _ s).trans frame.watchers, frame.lastColor, ?sleep, frame.env⟩
  case trace =>
    rw [finish_trace, snapLanes_trace, snapItems_eq, accept_trace, commandItems]
    simp only [List.append_assoc, List.cons_append, List.nil_append]
  case outside =>
    rw [finish_image, snapLanes_read_outside _ fun ⟨l, hl, hin⟩ => ha ⟨l.servo, (inTargets_iff s).2 ⟨l, hl, rfl⟩, hin⟩,
      accept_image]
  case holds =>
    obtain ⟨l, hl, rfl⟩ := (inTargets_iff s).1 hi
    rw [finish_image, targetAngle_of_lane hl]
    exact snapLanes_holds (planLanes_nodup ht s) (s := s.accept (.movesync dur targets)) hai hl
  case sleep => rw [finish_sleep, snapLanes_sleep, accept_sleep]

/-! ### A frame -/

/-- A segment of MOVESYNC has written frame `k` and taken its pause (41_servo R165, R167). -/
structure FrameStep (m : Move) (k : Nat) (s t : State) : Prop where
  trace : t.trace = s.trace ++ ((m.lanes.filter fun l => decide (l.delta ≠ 0)).map (fun l =>
    servoItem l.servo (framePosition l.start l.delta k m.steps)) ++ [.pause .cmd m.frameDelay])
  busy : t.busy = s.busy
  seq : t.seq = .move { m with k := k }
  lanes : ∀ l ∈ m.lanes, t.angleOf l.servo =
    if l.delta = 0 then s.angleOf l.servo else framePosition l.start l.delta k m.steps
  others : ∀ i : Servo, (∀ l ∈ m.lanes, l.servo ≠ i) → t.angleOf i = s.angleOf i
  outside : SameImageOutside (InMovingChannels m.lanes) s t
  holds : autoIncrement s.image = true → ∀ l ∈ m.lanes, l.delta ≠ 0 →
    ChannelHolds t.image (servoChannel l.servo) 0 (ticks (framePosition l.start l.delta k m.steps))
  frame : MotionFrame s t
  pause : t.sleep.cmd = .sleepingUntil (s.env.now + m.frameDelay)

theorem moveSegment_frameStep {m : Move} {s : State} (h : MoveReady m s) (hk : m.k < m.steps) :
    FrameStep m (m.k + 1) s (s.moveSegment m) := by
  have frame := moveSegment_motionFrame m s
  rcases moveSegment_cases m s with ⟨_, e⟩ | ⟨hle, _⟩
  · rw [e] at frame ⊢
    exact {
      trace := by rw [pause_trace, frameLanes_trace, List.append_assoc]
      busy := by rw [pause_busy, frameLanes_busy]
      seq := by rw [pause_seq, frameLanes_seq]
      lanes := fun l hl => angleOf_frameLanes _ h.nodup hl ((h.lanes l hl).framePosition_bounds h.moving hk)
      others := fun i hi => angleOf_frameLanes_other _ _ m.lanes _ hi
      outside := fun a ha => by rw [pause_image, frameLanes_read_outside _ _ _ ha]
      holds := fun hai l hl hd => by
        rw [pause_image]
        exact frameLanes_holds h.nodup _ _ (s := { s with seq := .move { m with k := m.k + 1 } }) hai hl hd
      frame := frame
      pause := by rw [pause_sleep, frameLanes_env, Sleeps.set_cmd] }
  · omega

theorem moveReady_of_frameStep {m : Move} {k : Nat} {s t : State} (h : MoveReady m s) (hk : k ≤ m.steps)
    (step : FrameStep m k s t) : MoveReady { m with k := k } t where
  servos := h.servos
  lanes := h.lanes
  steps := h.steps
  frameDelay := h.frameDelay
  moving := h.moving
  inside := hk
  stand l hl := by
    rw [step.lanes l hl, h.frame_angle k hl]

theorem moveStart_of_animated {dur : Int} {targets : List Word} {s : State} (h : 1 ≤ moveDistance targets s)
    (hdur : 0 < dur) : s.moveStart dur targets = s.moveSegment (s.plan dur targets) := by
  rw [← maxAbsDelta_planLanes] at h
  rcases moveStart_cases dur targets s with ⟨_, _⟩ | ⟨_, _, e⟩
  · omega
  · exact e

/-- `frameDelay = max(1, floor(dur / steps))` on integers (41_servo R164). -/
theorem frameDelayOf_eq {dur : Int} (h : 0 < dur) (steps : Nat) :
    (frameDelayOf dur steps : Int) = max 1 (dur / (steps : Int)) := by
  have : 0 ≤ dur / (steps : Int) := Int.ediv_nonneg (by omega) (by omega)
  unfold frameDelayOf
  omega

theorem plan_accept (dur : Int) (i : Instr) (targets : List Word) (s : State) :
    (s.accept i).plan dur targets = s.plan dur targets := rfl

/-- Settles O32: the first segment writes frame 1 of the plan from the accepted state. -/
theorem movesyncStartsWithItsFirstFrame : Obligations.MovesyncStartsWithItsFirstFrame := by
  intro dur targets s hbusy ht hdist hdur
  have hdist' : 1 ≤ moveDistance targets (s.accept (.movesync dur targets)) := hdist
  have run := exec_movesync_accepts hbusy ht dur
  rw [moveStart_of_animated hdist' hdur, plan_accept] at run
  have hsteps : (s.plan dur.toInt targets).steps = moveDistance targets s := maxAbsDelta_planLanes targets s
  have ready : MoveReady (s.plan dur.toInt targets) (s.accept (.movesync dur targets)) :=
    moveReady_plan (s := s.accept (.movesync dur targets)) ht dur.toInt (by rw [maxAbsDelta_planLanes]; exact hdist')
  have seg := moveSegment_frameStep ready (by rw [hsteps]; exact hdist)
  have frame := seg.frame
  refine ⟨_, { s.plan dur.toInt targets with k := 1 }, run, seg.busy, seg.seq, rfl, hsteps, ?frameDelay,
    planLanes_eq targets s, ?trace, seg.lanes, fun i hi => seg.others i fun l hl he => hi ((inTargets_iff s).2 ⟨l, hl, he⟩),
    seg.outside, seg.holds, (sameWatchers_accept _ s).trans frame.watchers, frame.lastColor, frame.env, ?sleep⟩
  case frameDelay => rw [← hsteps]; exact frameDelayOf_eq hdur _
  case trace => rw [seg.trace, accept_trace, List.append_assoc]; rfl
  case sleep => rw [frame.sleep, seg.pause]; rfl

theorem resume_of_move {s : State} {m : Move} (h : s.seq = .move m) : s.resume = s.moveSegment m := by
  simp only [State.resume, h]

theorem Inv.busy_of_move {s : State} (h : Inv s) {m : Move} (hs : s.seq = .move m) : s.busy = true :=
  h.busySeq.2 (by rw [hs]; simp)

theorem Woken.moveReady {t : Task} {s w : State} (h : Woken t s w) {m : Move} (hm : MoveReady m s) : MoveReady m w :=
  { hm with stand := fun l hl => (angleOf_congr h.angle l.servo).trans (hm.stand l hl) }

/-- Settles O33: a later segment writes the next frame from the woken state. -/
theorem movesyncWritesItsNextFrame : Obligations.MovesyncWritesItsNextFrame := by
  intro s s' m hinv hb hn hseq hk
  have hw := woken_of_nextTask hn
  have hbusy := hinv.busy_of_move hseq
  have seg := moveSegment_frameStep (hw.moveReady (moveReady_of_seqLegal hseq hinv.seqLegal)) hk
  rw [← resume_of_move (hw.seq.trans hseq)] at seg
  have frame := seg.frame
  refine ⟨_, step_resumes hb hn hbusy, seg.busy.trans (hw.busy.trans hbusy), seg.seq, hw.trace ▸ seg.trace, ?lanes,
    fun i hi => (seg.others i hi).trans (angleOf_congr hw.angle i), ?outside, fun hai => seg.holds (by rwa [hw.image]),
    hw.sameWatchers.trans frame.watchers, frame.lastColor.trans hw.lastColor, ?env, ?sleep⟩
  case lanes => intro l hl; rw [seg.lanes l hl, angleOf_congr hw.angle]
  case outside => intro a ha; rw [seg.outside a ha, hw.image]
  case env => rw [frame.env]; exact wakeUp_env_of_nextTask hn
  case sleep => rw [frame.sleep, seg.pause, frame.env, hw.sleep]; rfl

/-! ### The final snap -/

theorem moveSegment_of_end {m : Move} {s : State} (h : m.steps ≤ m.k) :
    s.moveSegment m = (s.snapLanes m.lanes).finish := by
  rw [State.moveSegment, if_neg (by omega)]

theorem MoveReady.angleOf_snapLanes {m : Move} {s : State} (h : MoveReady m s) {l : Lane} (hl : l ∈ m.lanes) :
    (s.snapLanes m.lanes).angleOf l.servo = l.target :=
  Machine.angleOf_snapLanes s h.nodup (fun l hl => (h.lanes l hl).target) hl

/-- Settles O34: after the last frame the segment snaps the lanes and ends. -/
theorem movesyncEndsWithItsFinalSnap : Obligations.MovesyncEndsWithItsFinalSnap := by
  intro s s' m hinv hb hn hseq hk
  have hw := woken_of_nextTask hn
  have ready := hw.moveReady (moveReady_of_seqLegal hseq hinv.seqLegal)
  have step := step_resumes hb hn (hinv.busy_of_move hseq)
  rw [resume_of_move (hw.seq.trans hseq), moveSegment_of_end (by omega)] at step
  have frame := snapLanes_finish_motionFrame m.lanes (s'.wakeUp .cmd)
  refine ⟨_, step, ⟨rfl, rfl⟩, ?trace, fun l hl => ready.angleOf_snapLanes hl,
    fun i hi => (angleOf_snapLanes_other m.lanes _ hi).trans (angleOf_congr hw.angle i), fun a ha => ?outside,
    fun hai l hl => ?holds, hw.sameWatchers.trans frame.watchers, frame.lastColor.trans hw.lastColor, ?env, ?sleep⟩
  case trace => rw [finish_trace, snapLanes_trace, hw.trace, List.append_assoc]
  case outside => rw [finish_image, snapLanes_read_outside _ ha, hw.image]
  case holds => rw [finish_image]; exact snapLanes_holds ready.nodup (by rwa [hw.image]) hl
  case env => rw [frame.env]; exact wakeUp_env_of_nextTask hn
  case sleep => rw [finish_sleep, snapLanes_sleep, hw.sleep, Sleeps.set_cmd]

/-! ### Under every schedule -/

/-- A step while a command is in progress runs its next segment, if CMD is chosen, or leaves it as it is. -/
theorem step_busy {s t : State} (h : step s = .next t) (hbusy : s.busy = true) :
    (¬ Chosen .cmd s ∧ t.angle = s.angle ∧ t.busy = s.busy ∧ t.seq = s.seq) ∨
      ∃ w, Woken .cmd s w ∧ t = w.resume := by
  rcases step_inversion h with ⟨_, rest, i, hb, _, hi, rfl⟩ | ⟨_, hn, rfl⟩ | ⟨task, s', _, hn, hw, hran⟩
  · obtain ⟨hr, _, hbusy, hseq, _⟩ := payload_frame hi (s.withBusIn rest)
    exact .inl ⟨fun hc => absurd (hc.1.symm.trans hb) (by simp), hr.angle, hbusy, hseq⟩
  · exact .inl ⟨fun ⟨_, _, hc⟩ => absurd (hn.symm.trans hc) (by simp), rfl, rfl, rfl⟩
  · have other (hne : task ≠ .cmd) : ¬ Chosen .cmd s := fun hc => by
      obtain ⟨_, _, hc⟩ := hc
      rw [hn] at hc
      cases hc
      exact hne rfl
    cases hran with
    | dark => rw [darkPoll_eq]; exact .inl ⟨other (by simp), hw.angle, hw.busy, hw.seq⟩
    | color => rw [colorPoll_eq]; exact .inl ⟨other (by simp), hw.angle, hw.busy, hw.seq⟩
    | resume => exact .inr ⟨_, hw, rfl⟩
    | accept hidle => exact absurd (hbusy.symm.trans hidle) (by simp)

/-- Settles O35: a step leaves the MOVESYNC alone, writes its next frame, or ends it with the final snap. -/
theorem movesyncEndsAtItsTargetsUnderEverySchedule : Obligations.MovesyncEndsAtItsTargetsUnderEverySchedule := by
  intro s t m hinv hseq h
  have hbusy := hinv.busy_of_move hseq
  have ready := moveReady_of_seqLegal hseq hinv.seqLegal
  rcases step_busy h hbusy with ⟨_, hangle, hbusy', hseq'⟩ | ⟨w, hw, rfl⟩
  · exact ⟨fun i _ => angleOf_congr hangle i, .inl ⟨hbusy'.trans hbusy, m.k, hseq'.trans hseq, by omega, by omega⟩⟩
  · have ready' := hw.moveReady ready
    rw [resume_of_move (hw.seq.trans hseq)]
    by_cases hk : m.k < m.steps
    · have seg := moveSegment_frameStep ready' hk
      exact ⟨fun i hi => (seg.others i hi).trans (angleOf_congr hw.angle i),
        .inl ⟨seg.busy.trans (hw.busy.trans hbusy), m.k + 1, seg.seq, by omega, by omega⟩⟩
    · have hend : m.k = m.steps := by have := ready.inside; omega
      rw [moveSegment_of_end (by omega)]
      exact ⟨fun i hi => (angleOf_snapLanes_other m.lanes w hi).trans (angleOf_congr hw.angle i),
        .inr ⟨⟨rfl, rfl⟩, hend, fun l hl => ready'.angleOf_snapLanes hl⟩⟩

/-! ### Alone with the command sequencer -/

/-- A MOVESYNC with `n` frames to go ends with the segment after them, every lane at its target (41_servo R168, R170). -/
theorem run_move {n : Nat} {m : Move} {s : State} (halone : CmdAlone s) (hbusy : s.busy = true) (hseq : s.seq = .move m)
    (ready : MoveReady m s) (hn : m.steps = m.k + n) :
    ∃ u, Host.Core.run Sys2Proof.core (n + 1) s = .next u ∧ Quiescent u ∧
      (∀ l ∈ m.lanes, u.angleOf l.servo = l.target) ∧
      ∀ i, (∀ l ∈ m.lanes, l.servo ≠ i) → u.angleOf i = s.angleOf i := by
  induction n generalizing m s with
  | zero =>
    have hw := woken_wakeUp .cmd s
    obtain ⟨hstep, _⟩ := halone.step hbusy
    rw [resume_of_move (hw.seq.trans hseq), moveSegment_of_end (by omega)] at hstep
    exact ⟨_, run_succ hstep 0, ⟨rfl, rfl⟩, fun l hl => (hw.moveReady ready).angleOf_snapLanes hl,
      fun i hi => (angleOf_snapLanes_other m.lanes _ hi).trans (angleOf_congr hw.angle i)⟩
  | succ n ih =>
    have hw := woken_wakeUp .cmd s
    obtain ⟨hstep, halone'⟩ := halone.step hbusy
    have seg := moveSegment_frameStep (hw.moveReady ready) (by omega)
    rw [← resume_of_move (hw.seq.trans hseq)] at seg
    obtain ⟨u, hrun, hquiet, hlanes, hothers⟩ := ih halone' (seg.busy.trans (hw.busy.trans hbusy)) seg.seq
      (moveReady_of_frameStep (hw.moveReady ready) (by omega) seg) (by dsimp only; omega)
    exact ⟨u, (run_succ hstep _).trans hrun, hquiet, hlanes, fun i hi =>
      (hothers i hi).trans ((seg.others i hi).trans (angleOf_congr hw.angle i))⟩

/-- Settles O36: the first segment snaps, or writes frame 1, after which the others follow alone. -/
theorem movesyncReachesItsTargets : Obligations.MovesyncReachesItsTargets := by
  intro dur targets s t hbusy halone ht h
  rw [exec_movesync_accepts hbusy ht] at h
  injection h with h
  by_cases hsnap : moveDistance targets s = 0 ∨ dur.toInt ≤ 0
  · have hsnap' : moveDistance targets (s.accept (.movesync dur targets)) = 0 ∨ dur.toInt ≤ 0 := hsnap
    rw [moveStart_of_snap hsnap'] at h
    have hzero : (if dur.toInt ≤ 0 then 0 else moveDistance targets s) = 0 := by split <;> omega
    rw [hzero, ← h]
    exact ⟨_, rfl, ⟨rfl, rfl⟩, angleOf_snapLanes_planLanes ht (s.accept (.movesync dur targets))⟩
  · have hdist : 1 ≤ moveDistance targets (s.accept (.movesync dur targets)) :=
      show 1 ≤ moveDistance targets s by omega
    have hsteps : ((s.accept (.movesync dur targets)).plan dur.toInt targets).steps = moveDistance targets s :=
      maxAbsDelta_planLanes targets s
    have hk : ((s.accept (.movesync dur targets)).plan dur.toInt targets).k = 0 := rfl
    have ready := moveReady_plan ht dur.toInt (s := s.accept (.movesync dur targets))
      (by rw [maxAbsDelta_planLanes]; exact hdist)
    have seg := moveSegment_frameStep ready (by rw [hsteps]; exact hdist)
    rw [moveStart_of_animated hdist (by omega)] at h
    rw [h] at seg
    have halone' : CmdAlone t := (halone.accept _).of_motionFrame seg.frame
    obtain ⟨n, hn⟩ : ∃ n, moveDistance targets s = n + 1 := ⟨moveDistance targets s - 1, by omega⟩
    obtain ⟨u, hrun, hquiet, hlanes, hothers⟩ := run_move halone' seg.busy seg.seq
      (moveReady_of_frameStep ready (by omega) seg) (n := n)
      (by dsimp only; omega)
    rw [if_neg (by omega), hn]
    exact ⟨u, hrun, hquiet, angleOf_eq_targetAngle (s := s) hlanes fun i hi => (hothers i hi).trans (seg.others i hi)⟩

end Sys2Proof.Machine
end

section
/-! PROOFS. Fair runs. What is left of the command in progress (`State.remaining`) stays while CMD is not chosen and falls
with each of its segments, and fairness chooses CMD again and again; a Running watcher is live, so it is chosen too. -/

namespace Sys2Proof.Machine

/-! ### Runs -/

/-- The fields of the block after a step of a run, whatever the outside does then (60_exceptions R246). -/
theorem IsRun.next {r : Nat → State} (h : IsRun r) (n : Nat) :
    ∃ t, step (r n) = .next t ∧ r (n + 1) = { t with env := (r (n + 1)).env } := by
  obtain ⟨t, ht, ho⟩ := h n
  exact ⟨t, ht, eq_of_offered ho⟩

theorem IsRun.inv {r : Nat → State} (h : IsRun r) (h0 : Inv (r 0)) (n : Nat) : Inv (r n) := by
  induction n with
  | zero => exact h0
  | succ n ih =>
    obtain ⟨t, ht, e⟩ := h.next n
    rw [e]
    exact (everyStepKeepsTheInvariant _ t ih ht).withEnv _

/-! ### What is left of a command -/

/-- The segments left of the command in progress: a degree each of SWEEP; the frames left of MOVESYNC and its snap. -/
def State.remaining (s : State) : Nat :=
  match s.seq with
  | .idle => 0
  | .sweep i target _ => (target.toInt - s.angleOf i).natAbs
  | .move m => m.steps - m.k + 1

theorem remaining_of_sweep {s : State} {i : Servo} {target delay : Word} (h : s.seq = .sweep i target delay) :
    s.remaining = (target.toInt - s.angleOf i).natAbs := by
  simp only [State.remaining, h]

theorem remaining_of_move {s : State} {m : Move} (h : s.seq = .move m) : s.remaining = m.steps - m.k + 1 := by
  simp only [State.remaining, h]

theorem remaining_congr {s t : State} (hangle : t.angle = s.angle) (hseq : t.seq = s.seq) : t.remaining = s.remaining := by
  unfold State.remaining
  rw [hseq]
  split <;> simp only [angleOf_congr hangle]

/-- The next segment of a command ends it or leaves less of it (60_exceptions R245). -/
theorem resume_progress {s : State} (h : Inv s) (hbusy : s.busy = true) :
    Quiescent s.resume ∨ (s.resume.busy = true ∧ s.resume.remaining < s.remaining) := by
  have legal := h.seqLegal
  cases hs : s.seq with
  | idle => exact absurd hs (h.busySeq.1 hbusy)
  | sweep i target delay =>
    have ha : s.angleOf i ≠ target.toInt := by unfold SeqLegal at legal; rwa [hs] at legal
    have seg := sweepSegment_step ha delay
    have hnext := sweepNext_natAbs ha
    rw [resume_of_sweep hs, remaining_of_sweep hs]
    by_cases he : sweepNext (s.angleOf i) target.toInt = target.toInt
    · exact .inl (seg.ended he)
    · obtain ⟨hbusy', hseq⟩ := seg.goesOn he
      rw [remaining_of_sweep hseq, seg.angle.this]
      exact .inr ⟨hbusy'.trans hbusy, by omega⟩
  | move m =>
    rw [resume_of_move hs, remaining_of_move hs]
    by_cases hk : m.k < m.steps
    · have seg := moveSegment_frameStep (moveReady_of_seqLegal hs legal) hk
      rw [remaining_of_move seg.seq]
      exact .inr ⟨seg.busy.trans hbusy, by dsimp only; omega⟩
    · rw [moveSegment_of_end (by omega)]
      exact .inl ⟨rfl, rfl⟩

/-- In one step of a run a command in progress waits, if CMD is not chosen, and otherwise ends or has less left. -/
theorem IsRun.step_busy {r : Nat → State} (h : IsRun r) (h0 : Inv (r 0)) {n : Nat} (hbusy : (r n).busy = true) :
    (¬ Chosen .cmd (r n) ∧ (r (n + 1)).busy = true ∧ (r (n + 1)).remaining = (r n).remaining) ∨
      Quiescent (r (n + 1)) ∨ ((r (n + 1)).busy = true ∧ (r (n + 1)).remaining < (r n).remaining) := by
  obtain ⟨t, ht, e⟩ := h.next n
  rw [e]
  rcases Machine.step_busy ht hbusy with ⟨hno, hangle, hbusy', hseq⟩ | ⟨w, hw, rfl⟩
  · exact .inl ⟨hno, hbusy'.trans hbusy, remaining_congr hangle hseq⟩
  · have progress := resume_progress (hw.inv (h.inv h0 n)) (hw.busy.trans hbusy)
    rw [remaining_congr hw.angle hw.seq] at progress
    exact .inr (progress.imp (fun q => ⟨q.busy, q.seq⟩) id)

/-- By the time CMD is chosen, a command in progress has ended or has less left. -/
theorem IsRun.progress {r : Nat → State} (h : IsRun r) (h0 : Inv (r 0)) {n d : Nat} (hbusy : (r n).busy = true)
    (hc : Chosen .cmd (r (n + d))) :
    ∃ k, n ≤ k ∧ (Quiescent (r k) ∨ ((r k).busy = true ∧ (r k).remaining < (r n).remaining)) := by
  induction d generalizing n with
  | zero =>
    rcases h.step_busy h0 hbusy with ⟨hno, _, _⟩ | progress
    · exact absurd hc hno
    · exact ⟨n + 1, by omega, progress⟩
  | succ d ih =>
    rcases h.step_busy h0 hbusy with ⟨_, hbusy', hrem⟩ | progress
    · obtain ⟨k, hk, progress⟩ := ih hbusy' (by rwa [Nat.add_assoc, Nat.add_comm 1 d])
      exact ⟨k, by omega, hrem ▸ progress⟩
    · exact ⟨n + 1, by omega, progress⟩

/-- In a fair run a command in progress ends: by induction on what is left of it. -/
theorem IsRun.command_ends {r : Nat → State} (h : IsRun r) (hfair : Fair r) (h0 : Inv (r 0)) {n : Nat}
    (hbusy : (r n).busy = true) : ∃ m, n ≤ m ∧ Quiescent (r m) := by
  induction hrem : (r n).remaining using Nat.strong_induction_on generalizing n with
  | _ left ih =>
    obtain ⟨m, hm, hc⟩ := hfair n .cmd (mem_liveTasks.2 (by simp [State.cmdReady, hbusy]))
    obtain ⟨k, hk, hquiet | ⟨hbusy', hless⟩⟩ := h.progress h0 (d := m - n) hbusy (by rwa [Nat.add_sub_cancel' hm])
    · exact ⟨k, hk, hquiet⟩
    · obtain ⟨m', hm', hquiet⟩ := ih _ (hrem ▸ hless) hbusy' rfl
      exact ⟨m', hk.trans hm', hquiet⟩

/-- Settles O54: a command ends by induction on what is left of it, and a chosen watcher takes its sample first. -/
theorem fairRunsEndCommandsAndKeepPolling : Obligations.FairRunsEndCommandsAndKeepPolling := by
  intro r hrun hfair h0 n
  refine ⟨fun hbusy => hrun.command_ends hfair h0 hbusy, fun hdark => ?dark, fun hcolor => ?color⟩
  case dark =>
    obtain ⟨m, hm, hb, s', hn⟩ := hfair n .dark (mem_liveTasks.2 hdark)
    obtain ⟨t, ht, e⟩ := hrun.next m
    have hw := woken_of_nextTask hn
    cases taskRan_of_step hb hn ht
    have htrace := congrArg State.trace e
    rw [darkPoll_eq, hw.ambientAnswer, hw.trace] at htrace
    exact ⟨m, _, hm, htrace⟩
  case color =>
    obtain ⟨m, hm, hb, s', hn⟩ := hfair n .color (mem_liveTasks.2 hcolor)
    obtain ⟨t, ht, e⟩ := hrun.next m
    have hw := woken_of_nextTask hn
    cases taskRan_of_step hb hn ht
    have htrace := congrArg State.trace e
    rw [colorPoll_eq, hw.colorAnswer, hw.trace] at htrace
    exact ⟨m, _, hm, htrace⟩

end Sys2Proof.Machine
end
